-- ==== Sys2Proof/Word.lean ====
section
/-! DEFINITION. The word types and the operand selectors of the instruction set (spec/10_state.md R20 to R25,
spec/00_scope.md R9, R14). A selector is a constructor, never a raw code: its code is `code`. -/

namespace Sys2Proof

/-- `u8` of R9. -/
abbrev Byte := BitVec 8

/-- `u16` of R9: addresses, `pc`, `sp` and the pair views. -/
abbrev Word := BitVec 16

/-- The seven general registers (R20), as the selector `r` names them (R21). Code 6 is the HL-indirect byte and no
register, so it has no constructor here. -/
inductive Reg8 where
  | b | c | d | e | h | l | a
  deriving DecidableEq, Repr

/-- The 16-bit operand selector `rp` (R24). -/
inductive Rp where
  | bc | de | hl | sp
  deriving DecidableEq, Repr

/-- The 16-bit operand selector `rp2` (R25). -/
inductive Rp2 where
  | bc | de | hl | af
  deriving DecidableEq, Repr

/-- The four conditions (R14). -/
inductive Cond where
  | nz | z | nc | c
  deriving DecidableEq, Repr

/-- The flags register: "four independent booleans: zero, subtract, half-carry, carry" (R26). -/
structure Flags where
  z : Bool
  n : Bool
  h : Bool
  c : Bool
  deriving DecidableEq, Repr

/-- An 8-bit result together with the flags computed with it. -/
structure ByteResult where
  val   : Byte
  flags : Flags
  deriving DecidableEq, Repr

/-- A 16-bit result together with the flags computed with it. -/
structure WordResult where
  val   : Word
  flags : Flags
  deriving DecidableEq, Repr

/-- The 3-bit code of a register (R21). -/
def Reg8.code : Reg8 → Nat
  | .b => 0 | .c => 1 | .d => 2 | .e => 3 | .h => 4 | .l => 5 | .a => 7

/-- The 2-bit code of a pair (R24). -/
def Rp.code : Rp → Nat
  | .bc => 0 | .de => 1 | .hl => 2 | .sp => 3

/-- The 2-bit code of a stack pair (R25). -/
def Rp2.code : Rp2 → Nat
  | .bc => 0 | .de => 1 | .hl => 2 | .af => 3

/-- The 2-bit code of a condition (R14). -/
def Cond.code : Cond → Nat
  | .nz => 0 | .z => 1 | .nc => 2 | .c => 3

end Sys2Proof
end

