-- ==== Sys2Proof/Syntax.lean ====
section
/-! DEFINITION. The instructions: one constructor per row of spec/opcode_table.json, carrying the row's field values
(spec/30_encoding.md R100, decision D17). The immediate bytes are not part of the decoded value: the execution unit
reads them (R88 to R90). -/

namespace Sys2Proof

/-- The decoded instruction (R33, R100). -/
inductive Instr where
  -- Hooks, STOP and the prefix byte (44_orchestrator.md)
  /-- `NOP` (R295). -/
  | nop
  /-- `STOP` (R300). -/
  | stop
  /-- `HALT` (R296). -/
  | halt
  /-- `DI` (R297). -/
  | di
  /-- `EI` (R298). -/
  | ei
  /-- `RETI` (R299). -/
  | reti
  /-- `PREFIX CB` (R293). -/
  | prefixCb
  -- Load unit (41_load.md)
  /-- `LD r,r'` (R181). -/
  | ldRR (rd rs : Reg8)
  /-- `LD r,n` (R182). -/
  | ldRN (rd : Reg8)
  /-- `LD r,(HL)` (R183). -/
  | ldRHl (rd : Reg8)
  /-- `LD (HL),r` (R184). -/
  | ldHlR (rs : Reg8)
  /-- `LD (HL),n` (R185). -/
  | ldHlN
  /-- `LD A,(BC)` (R186). -/
  | ldABc
  /-- `LD A,(DE)` (R187). -/
  | ldADe
  /-- `LD (BC),A` (R188). -/
  | ldBcA
  /-- `LD (DE),A` (R189). -/
  | ldDeA
  /-- `LD A,(HL+)` (R190). -/
  | ldAHli
  /-- `LD A,(HL-)` (R191). -/
  | ldAHld
  /-- `LD (HL+),A` (R192). -/
  | ldHliA
  /-- `LD (HL-),A` (R193). -/
  | ldHldA
  /-- `LD A,(nn)` (R194). -/
  | ldANn
  /-- `LD (nn),A` (R195). -/
  | ldNnA
  /-- `LDH A,(n)` (R196). -/
  | ldhAN
  /-- `LDH (n),A` (R197). -/
  | ldhNA
  /-- `LDH A,(C)` (R198). -/
  | ldhAC
  /-- `LDH (C),A` (R199). -/
  | ldhCA
  /-- `LD rr,nn` (R200). -/
  | ldRpNn (p : Rp)
  /-- `LD SP,HL` (R204). -/
  | ldSpHl
  /-- `LD HL,SP+e` (R205). -/
  | ldHlSpE
  /-- `LD (nn),SP` (R206). -/
  | ldNnSp
  -- ALU, two operands (40_alu.md)
  /-- `ADD A,r` (R123). -/
  | addAR (rs : Reg8)
  /-- `ADD A,(HL)` (R124). -/
  | addAHl
  /-- `ADD A,n` (R125). -/
  | addAN
  /-- `ADC A,r` (R126). -/
  | adcAR (rs : Reg8)
  /-- `ADC A,(HL)` (R127). -/
  | adcAHl
  /-- `ADC A,n` (R128). -/
  | adcAN
  /-- `SUB r` (R129). -/
  | subR (rs : Reg8)
  /-- `SUB (HL)` (R130). -/
  | subHl
  /-- `SUB n` (R131). -/
  | subN
  /-- `SBC A,r` (R132). -/
  | sbcAR (rs : Reg8)
  /-- `SBC A,(HL)` (R133). -/
  | sbcAHl
  /-- `SBC A,n` (R134). -/
  | sbcAN
  /-- `AND r` (R135). -/
  | andR (rs : Reg8)
  /-- `AND (HL)` (R136). -/
  | andHl
  /-- `AND n` (R137). -/
  | andN
  /-- `XOR r` (R138). -/
  | xorR (rs : Reg8)
  /-- `XOR (HL)` (R139). -/
  | xorHl
  /-- `XOR n` (R140). -/
  | xorN
  /-- `OR r` (R141). -/
  | orR (rs : Reg8)
  /-- `OR (HL)` (R142). -/
  | orHl
  /-- `OR n` (R143). -/
  | orN
  /-- `CP r` (R144). -/
  | cpR (rs : Reg8)
  /-- `CP (HL)` (R145). -/
  | cpHl
  /-- `CP n` (R146). -/
  | cpN
  -- ALU, one operand and 16-bit (40_alu.md)
  /-- `INC r` (R150). -/
  | incR (rd : Reg8)
  /-- `INC (HL)` (R151). -/
  | incHl
  /-- `DEC r` (R152). -/
  | decR (rd : Reg8)
  /-- `DEC (HL)` (R153). -/
  | decHl
  /-- `INC rr` (R154). -/
  | incRp (p : Rp)
  /-- `DEC rr` (R155). -/
  | decRp (p : Rp)
  /-- `ADD HL,rr` (R160). -/
  | addHlRp (p : Rp)
  /-- `ADD SP,e` (R161). -/
  | addSpE
  /-- `DAA` (R165). -/
  | daa
  /-- `CPL` (R166). -/
  | cpl
  /-- `SCF` (R167). -/
  | scf
  /-- `CCF` (R168). -/
  | ccf
  -- Accumulator rotates (42_bitmanip.md)
  /-- `RLCA` (R220). -/
  | rlca
  /-- `RRCA` (R221). -/
  | rrca
  /-- `RLA` (R222). -/
  | rla
  /-- `RRA` (R223). -/
  | rra
  -- Control flow and stack (43_control_flow.md)
  /-- `JP nn` (R263). -/
  | jpNn
  /-- `JP cc,nn` (R264). -/
  | jpCcNn (cc : Cond)
  /-- `JP HL` (R265). -/
  | jpHl
  /-- `JR e` (R266). -/
  | jrE
  /-- `JR cc,e` (R267). -/
  | jrCcE (cc : Cond)
  /-- `CALL nn` (R269). -/
  | callNn
  /-- `CALL cc,nn` (R270). -/
  | callCcNn (cc : Cond)
  /-- `RET` (R272). -/
  | ret
  /-- `RET cc` (R273). -/
  | retCc (cc : Cond)
  /-- `RST t` (R275). -/
  | rst (t : Fin 8)
  /-- `PUSH rr` (R278). -/
  | pushRr (q : Rp2)
  /-- `PUSH AF` (R279). -/
  | pushAf
  /-- `POP rr` (R280). -/
  | popRr (q : Rp2)
  /-- `POP AF` (R281). -/
  | popAf
  -- Bytes with no mapping (30_encoding.md R96): the decoder's explicit 'no mapping' result, by name
  /-- `ILLEGAL 0xD3` (R96). -/
  | illegalD3
  /-- `ILLEGAL 0xDB` (R96). -/
  | illegalDB
  /-- `ILLEGAL 0xDD` (R96). -/
  | illegalDD
  /-- `ILLEGAL 0xE3` (R96). -/
  | illegalE3
  /-- `ILLEGAL 0xE4` (R96). -/
  | illegalE4
  /-- `ILLEGAL 0xEB` (R96). -/
  | illegalEB
  /-- `ILLEGAL 0xEC` (R96). -/
  | illegalEC
  /-- `ILLEGAL 0xED` (R96). -/
  | illegalED
  /-- `ILLEGAL 0xF4` (R96). -/
  | illegalF4
  /-- `ILLEGAL 0xFC` (R96). -/
  | illegalFC
  /-- `ILLEGAL 0xFD` (R96). -/
  | illegalFD
  -- Prefixed set (42_bitmanip.md)
  /-- `RLC r` (R226). -/
  | rlcR (rs : Reg8)
  /-- `RLC (HL)` (R227). -/
  | rlcHl
  /-- `RRC r` (R228). -/
  | rrcR (rs : Reg8)
  /-- `RRC (HL)` (R229). -/
  | rrcHl
  /-- `RL r` (R230). -/
  | rlR (rs : Reg8)
  /-- `RL (HL)` (R231). -/
  | rlHl
  /-- `RR r` (R232). -/
  | rrR (rs : Reg8)
  /-- `RR (HL)` (R233). -/
  | rrHl
  /-- `SLA r` (R234). -/
  | slaR (rs : Reg8)
  /-- `SLA (HL)` (R235). -/
  | slaHl
  /-- `SRA r` (R236). -/
  | sraR (rs : Reg8)
  /-- `SRA (HL)` (R237). -/
  | sraHl
  /-- `SWAP r` (R238). -/
  | swapR (rs : Reg8)
  /-- `SWAP (HL)` (R239). -/
  | swapHl
  /-- `SRL r` (R240). -/
  | srlR (rs : Reg8)
  /-- `SRL (HL)` (R241). -/
  | srlHl
  /-- `BIT b,r` (R242). -/
  | bitR (i : Fin 8) (rs : Reg8)
  /-- `BIT b,(HL)` (R243). -/
  | bitHl (i : Fin 8)
  /-- `RES b,r` (R244). -/
  | resR (i : Fin 8) (rs : Reg8)
  /-- `RES b,(HL)` (R245). -/
  | resHl (i : Fin 8)
  /-- `SET b,r` (R246). -/
  | setR (i : Fin 8) (rs : Reg8)
  /-- `SET b,(HL)` (R247). -/
  | setHl (i : Fin 8)
  deriving DecidableEq, Repr

end Sys2Proof
end

