-- ==== Sys2Proof/Config.lean ====
section
/-! DEFINITION. The named parameters of the block (spec/00_scope.md R8) and the reading of memory (R63). `UNWIRED`,
`ADDHL_H`, `ILLEGAL`, `RESET_PC`, `CYCLES` and the reading are plain data that `State.params` carries, so that every
statement about every state covers every value of them (log entry 4); `RESET_REGS` is `ResetRegs`, an argument of the
reset input. The values the spec takes stand in `Config.resetParams`. `Config.freeAnswer` is the one free value (log
entry 23). -/

namespace Sys2Proof

/-- `UNWIRED` (R8, R121, R122): which operand paths of the ALU are not wired. `true` means the path is IN `UNWIRED`.
OPEN in the spec (decision D2). -/
structure Unwired where
  /-- `ALU8_IMM`: the immediate operand of the eight two-operand ALU operations. -/
  alu8Imm      : Bool
  /-- `ALU8_HLIND`: their HL-indirect operand. -/
  alu8HlInd    : Bool
  /-- `INCDEC8_HLIND`: `INC (HL)` and `DEC (HL)`. -/
  incDec8HlInd : Bool
  deriving DecidableEq, Repr

/-- `ADDHL_H` (R8, R160): how `ADD HL,rr` treats the half-carry flag. -/
inductive AddHlH where
  | bit11
  | unchanged
  deriving DecidableEq, Repr

/-- One figure of a `CYCLES` table that differs from the table of R372: the row of `form`, whatever its field values,
reports `cycles` when the outcome is `taken` (an unconditional form counts as taken). -/
structure CycleEntry where
  form   : Instr
  taken  : Bool
  cycles : Nat
  deriving DecidableEq, Repr

/-- The free value (log entry 23): what the environment answers the `n`-th read with, under the open reading of memory,
where the environment a state names says nothing of it. -/
opaque Config.freeAnswer : Nat → Byte

/-- The two readings of memory (R63, D15, U10). -/
inductive MemoryReading where
  /-- (a): memory is an array that only the block's writes change, and the host between steps. -/
  | closed
  /-- (b): the environment supplies the answer of each read. `answers` is that environment, the oracle: the number of a
  read, counted from construction, and its answer, the first entry for a number counting; a read with no entry is
  answered by `Config.freeAnswer`. -/
  | opened (answers : List (Nat × Byte))
  deriving DecidableEq, Repr

/-- The parameters a state carries. No step and no reset changes them. -/
structure Params where
  /-- `UNWIRED` (R8, R121, R122). -/
  unwired : Unwired
  /-- `ADDHL_H` (R8, R160). -/
  addHlH  : AddHlH
  /-- `ILLEGAL` (R8, R96): the unprefixed bytes with no mapping. A model of a less complete decoder enlarges it (D11);
  the eleven bytes of `Config.illegal` have no row to map to and stay without a mapping whatever it holds. -/
  illegal : List Byte
  /-- `RESET_PC` (R8, R361). -/
  resetPc : Word
  /-- `CYCLES` (R8, R372), as the entries that replace figures of the table of R372; none, and it is that table. The
  first entry for a row and an outcome counts. -/
  cycles  : List CycleEntry
  /-- Which reading of memory holds (R63, D15, U10). -/
  memory  : MemoryReading
  deriving DecidableEq, Repr

/-- `RESET_REGS` (R8, R362): the values reset leaves in the registers, the flags and `sp`. The spec leaves them
unspecified; a launch state supplies them. -/
structure ResetRegs where
  a  : Byte
  b  : Byte
  c  : Byte
  d  : Byte
  e  : Byte
  h  : Byte
  l  : Byte
  f  : Flags
  sp : Word
  deriving DecidableEq, Repr

/-- The empty `UNWIRED`: "the completed design" (R8). -/
def Config.allWired : Unwired := ⟨false, false, false⟩

/-- `UNWIRED_REF` (R8): the design as the source describes it, all three paths unwired. -/
def Config.unwiredRef : Unwired := ⟨true, true, true⟩

/-- The value the spec takes for `RESET_PC` (R361; log entry 17). -/
def Config.resetPc : Word := 0x0000

/-- The value the spec takes for `ILLEGAL` (R96; log entry 11): the bytes the published table leaves undefined. -/
def Config.illegal : List Byte := [0xD3, 0xDB, 0xDD, 0xE3, 0xE4, 0xEB, 0xEC, 0xED, 0xF4, 0xFC, 0xFD]

/-- The parameters `State.reset` carries: the values the spec takes, the reading its test vectors use (log entry 5),
and for `UNWIRED`, which it leaves OPEN, the completed design (DESIGN CHOICE, unsafe; log entries 2, 3, 10, 11 and
17). -/
def Config.resetParams : Params := ⟨Config.allWired, .bit11, Config.illegal, Config.resetPc, [], .closed⟩

/-- DESIGN CHOICE, unsafe (log entry 1): the values `State.reset` gives what R362 leaves unspecified. -/
def Config.resetRegs : ResetRegs := ⟨0, 0, 0, 0, 0, 0, 0, ⟨false, false, false, false⟩, 0⟩

end Sys2Proof
end

