-- ==== Sys2Proof/Machine/Operands.lean ====
section
/-! DEFINITION. Operand forms: byte order of 16-bit values, sign extension, high-page addresses, jump targets, and the
evaluation of a condition (spec/00_scope.md R10, R14; spec/20_memory.md R52, R62; spec/30_encoding.md R88 to R94). -/

namespace Sys2Proof.Machine

/-- `v[15:8]`. -/
def hiByte (v : Word) : Byte := BitVec.ofNat 8 (v.toNat / 256)

/-- `v[7:0]`. -/
def loByte (v : Word) : Byte := BitVec.ofNat 8 v.toNat

/-- `(hi << 8) | lo`. -/
def mkWord (hi lo : Byte) : Word := BitVec.ofNat 16 (256 * hi.toNat + lo.toNat)

/-- `sext_16(e)` (R10): `e` if `e < 128`, else `0xFF00 + e`. -/
def sext16 (e : Byte) : Word :=
  if e.toNat < 128 then BitVec.ofNat 16 e.toNat else BitVec.ofNat 16 (0xFF00 + e.toNat)

/-- The high-page address `0xFF00 + offset`, the offset unsigned (R62, R91). -/
def highPage (offset : Byte) : Word := BitVec.ofNat 16 (0xFF00 + offset.toNat)

/-- The target of a relative jump at `pc`: displacement from the address of the byte after the instruction (R89). -/
def relTarget (pc : Word) (e : Byte) : Word := pc + 2 + sext16 e

/-- The target of `RST t`: `t * 8` (R94). -/
def rstVector (t : Fin 8) : Word := BitVec.ofNat 16 (8 * t.val)

/-- `cond(cc)` (R14). -/
def condHolds (cc : Cond) (f : Flags) : Bool :=
  match cc with
  | .nz => !f.z
  | .z => f.z
  | .nc => !f.c
  | .c => f.c

/-- A flag as a bit of a byte, at position 0. -/
def bit8 (c : Bool) : Byte := if c then 1 else 0

end Sys2Proof.Machine
end

