-- ==== Sys2Proof/Machine/Flags.lean ====
section
/-! DEFINITION. Every computation that yields flags: the byte form of the flags register, the ALU helpers, the 16-bit
additions, `DAA`, the rotates and shifts, and the bit operations (spec/10_state.md R27, R28; spec/40_alu.md R147 to
R168; spec/42_bitmanip.md R220 to R247). Sums are exact natural numbers, narrowed at the end (R10). Flag behaviour
that the spec itself decides rather than quotes is listed in log entry 9. -/

namespace Sys2Proof.Machine

/-! ### The flags byte -/

/-- `Fbyte`: bit 7 Z, bit 6 N, bit 5 H, bit 4 C, low nibble zero (R27). -/
def flagsToByte (f : Flags) : Byte :=
  BitVec.ofNat 8 (128 * f.z.toNat + 64 * f.n.toNat + 32 * f.h.toNat + 16 * f.c.toNat)

/-- The flags a byte writes; its low nibble is ignored (R28). -/
def flagsOfByte (v : Byte) : Flags := ⟨v.getLsbD 7, v.getLsbD 6, v.getLsbD 5, v.getLsbD 4⟩

/-! ### 8-bit arithmetic and logic -/

/-- `add8` (R147), for ADD and ADC. -/
def add8 (a v : Byte) (cin : Bool) : ByteResult :=
  let sum := a.toNat + v.toNat + cin.toNat
  let res : Byte := BitVec.ofNat 8 sum
  ⟨res, ⟨res == 0, false, decide (a.toNat % 16 + v.toNat % 16 + cin.toNat > 15), decide (sum > 255)⟩⟩

/-- `sub8` (R148), for SUB, SBC and CP. The comparisons are on unbounded naturals. -/
def sub8 (a v : Byte) (bin : Bool) : ByteResult :=
  let res : Byte := a - v - bit8 bin
  ⟨res, ⟨res == 0, true, decide (a.toNat % 16 < v.toNat % 16 + bin.toNat), decide (a.toNat < v.toNat + bin.toNat)⟩⟩

/-- `logic8` for AND (R149): H is set. -/
def and8 (a v : Byte) : ByteResult := ⟨a &&& v, ⟨(a &&& v) == 0, false, true, false⟩⟩

/-- `logic8` for XOR (R149). -/
def xor8 (a v : Byte) : ByteResult := ⟨a ^^^ v, ⟨(a ^^^ v) == 0, false, false, false⟩⟩

/-- `logic8` for OR (R149). -/
def or8 (a v : Byte) : ByteResult := ⟨a ||| v, ⟨(a ||| v) == 0, false, false, false⟩⟩

/-- The 8-bit increment (R150): C is kept. -/
def inc8 (v : Byte) (f : Flags) : ByteResult :=
  let res := v + 1
  ⟨res, ⟨res == 0, false, decide (v.toNat % 16 = 15), f.c⟩⟩

/-- The 8-bit decrement (R152): C is kept. -/
def dec8 (v : Byte) (f : Flags) : ByteResult :=
  let res := v - 1
  ⟨res, ⟨res == 0, true, decide (v.toNat % 16 = 0), f.c⟩⟩

/-! ### 16-bit additions -/

/-- `ADD HL,rr` (R160). Z comes from the 16-bit result (spec/90_conflicts.md C5); H follows `ADDHL_H`. -/
def addHl16 (mode : AddHlH) (a b : Word) (f : Flags) : WordResult :=
  let sum := a.toNat + b.toNat
  let res : Word := BitVec.ofNat 16 sum
  let h :=
    match mode with
    | .bit11 => decide (a.toNat % 4096 + b.toNat % 4096 > 4095)
    | .unchanged => f.h
  ⟨res, ⟨res == 0, false, h, decide (sum > 65535)⟩⟩

/-- `sp + e` of `ADD SP,e` and `LD HL,SP+e` (R161, R205): the displacement is signed, the H and C tests take it as the
unsigned byte. -/
def addSpDisp (sp : Word) (e : Byte) : WordResult :=
  ⟨sp + sext16 e,
    ⟨false, false, decide (sp.toNat % 16 + e.toNat % 16 > 15), decide (sp.toNat % 256 + e.toNat > 255)⟩⟩

/-! ### DAA -/

/-- What `DAA` adds to the accumulator (R165). The two tests of the add case use the accumulator and the flags from
before the instruction. -/
def daaAdjust (a : Byte) (f : Flags) : Byte :=
  if f.n then
    if f.c then (if f.h then 0x9A else 0xA0)
    else if f.h then 0xFA else 0
  else
    (if f.c || decide (a.toNat > 0x99) then 0x60 else 0) + (if f.h || decide (a.toNat % 16 > 9) then 0x06 else 0)

/-- `DAA` (R165): N is kept, H is cleared, C is never cleared. -/
def daa8 (a : Byte) (f : Flags) : ByteResult :=
  let res := a + daaAdjust a f
  ⟨res, ⟨res == 0, f.n, false, f.c || (!f.n && decide (a.toNat > 0x99))⟩⟩

/-! ### Rotates, shifts, swap -/

/-- The flag contract of the prefixed rotates and shifts (R224): Z from the result, N and H cleared, C the bit shifted
out. -/
def shifted (res : Byte) (out : Bool) : ByteResult := ⟨res, ⟨res == 0, false, false, out⟩⟩

/-- `RLC` (R226). -/
def rlc8 (v : Byte) : ByteResult := shifted ((v <<< 1) ||| bit8 (v.getLsbD 7)) (v.getLsbD 7)

/-- `RRC` (R228). -/
def rrc8 (v : Byte) : ByteResult := shifted ((v >>> 1) ||| (bit8 (v.getLsbD 0) <<< 7)) (v.getLsbD 0)

/-- `RL` (R230): the old carry enters at bit 0. -/
def rl8 (v : Byte) (cin : Bool) : ByteResult := shifted ((v <<< 1) ||| bit8 cin) (v.getLsbD 7)

/-- `RR` (R232): the old carry enters at bit 7. -/
def rr8 (v : Byte) (cin : Bool) : ByteResult := shifted ((v >>> 1) ||| (bit8 cin <<< 7)) (v.getLsbD 0)

/-- `SLA` (R234). -/
def sla8 (v : Byte) : ByteResult := shifted (v <<< 1) (v.getLsbD 7)

/-- `SRA` (R236): bit 7 keeps its value. -/
def sra8 (v : Byte) : ByteResult := shifted ((v >>> 1) ||| (v &&& 0x80)) (v.getLsbD 0)

/-- `SWAP` (R238): C is cleared. -/
def swap8 (v : Byte) : ByteResult := shifted ((v <<< 4) ||| (v >>> 4)) false

/-- `SRL` (R240). -/
def srl8 (v : Byte) : ByteResult := shifted (v >>> 1) (v.getLsbD 0)

/-- The accumulator rotates clear Z whatever the result (R220 to R223). -/
def withoutZero (r : ByteResult) : ByteResult :=
  ⟨r.val, ⟨false, r.flags.n, r.flags.h, r.flags.c⟩⟩

/-! ### Bit operations -/

/-- The flags of `BIT b` (R242): Z is the complement of the tested bit, C is kept. -/
def bitFlags (i : Fin 8) (v : Byte) (f : Flags) : Flags := ⟨!v.getLsbD i.val, false, true, f.c⟩

/-- `v & ~(1 << b)` (R244). -/
def resBit (i : Fin 8) (v : Byte) : Byte := v &&& ~~~((1 : Byte) <<< i.val)

/-- `v | (1 << b)` (R246). -/
def setBit (i : Fin 8) (v : Byte) : Byte := v ||| ((1 : Byte) <<< i.val)

end Sys2Proof.Machine
end

