-- ==== Sys2Proof/Machine/State.lean ====
section
/-! DEFINITION. The state of the block (spec/10_state.md), its fault record, its outputs, the outcome types, and the
state right after reset (spec/70_reset_and_hazards.md R360 to R364). Plain data throughout. -/

namespace Sys2Proof.Machine

/-- Memory: (address, byte) pairs, addresses strictly rising, no entry equal to what an unlisted address reads as. -/
abbrev Memory := List Host.Cell

/-- The kinds of fatal condition (R320). -/
inductive FatalKind where
  | decodeFailure
  | unimplementedOperand
  deriving DecidableEq, Repr

/-- The fault record (R322): "the failure must identify the opcode byte, whether it was prefixed, and the program
counter at the time of fetch". -/
structure FaultRecord where
  kind     : FatalKind
  opcode   : Byte
  prefixed : Bool
  pc       : Word
  deriving DecidableEq, Repr

/-- The `hook` output (R40). -/
inductive Hook where
  | none
  | nop
  | halt
  | di
  | ei
  | reti
  deriving DecidableEq, Repr

/-- What the last step put on the block's outputs `cycles`, `hook` and `fault` (R39 to R41). A successful step outputs
the first two, a failed step the third instead. -/
inductive StepReport where
  /-- No step has run since reset. -/
  | idle
  /-- A successful step. -/
  | completed (cycles : Nat) (hook : Hook)
  /-- A step that ended in a fatal condition. -/
  | fatal (r : FaultRecord)
  deriving DecidableEq, Repr

/-- One byte transaction on the Memory Bus (R42). -/
inductive Txn where
  /-- `read(addr)`, answered `v`. -/
  | read (addr : Word) (v : Byte)
  /-- `write(addr, v)`. -/
  | write (addr : Word) (v : Byte)
  deriving DecidableEq, Repr

/-- The state. -/
structure State where
  /-- The accumulator (R20). -/
  a      : Byte
  b      : Byte
  c      : Byte
  d      : Byte
  e      : Byte
  h      : Byte
  l      : Byte
  /-- The flags register (R26). -/
  f      : Flags
  /-- The program counter (R30). -/
  pc     : Word
  /-- The stack pointer (R31). -/
  sp     : Word
  /-- The fault latch (R34). -/
  latch  : Option FaultRecord
  /-- The external memory (R50). Under the closed reading (R63 (a)) reads are answered from it; under the open one it
  holds what the block's writes put out, and no read consults it (log entry 5). -/
  mem    : Memory
  /-- The outputs of the last step (R39 to R41). The model's own field (log entry 6). -/
  report : StepReport
  /-- The bus transactions of the last step, oldest first (R42, R60). The model's own field (log entry 6). -/
  bus    : List Txn
  /-- How many reads the block has made: the number of the next one, by which the environment of the open reading
  answers (R63 (b)). The model's own field (log entry 23). -/
  reads  : Nat
  /-- The named parameters `UNWIRED`, `ADDHL_H`, `ILLEGAL`, `RESET_PC` and `CYCLES` (R8) and the reading of memory (R63).
  Constant; the model's own field (log entry 4). -/
  params : Params
  deriving DecidableEq, Repr

/-- Why the machine stops. -/
inductive Fault where
  /-- Raised by `step` alone, for a block whose fault latch is not empty: it "must stop execution" and reports the
  latched record again, changing nothing (R34, R290). Safe: the state stays what it was (log entry 7). -/
  | stopped (r : FaultRecord)
  deriving DecidableEq, Repr

/-- Why an instruction is refused. -/
inductive Refusal where
  /-- Raised by an arm of `exec` whose instruction has no meaning yet. No arm raises it now. Safe. -/
  | notModelled (mnemonic : String)
  deriving DecidableEq, Repr

/-- What a step or a meaning answers. -/
abbrev Result := Host.Outcome State Fault Refusal

/-- A launch state (R364): the registers R362 leaves unspecified, `pc` at `RESET_PC`, an empty fault latch, and the
memory the host chose. -/
def State.launch (r : ResetRegs) (p : Params) (m : Memory) : State where
  a := r.a
  b := r.b
  c := r.c
  d := r.d
  e := r.e
  h := r.h
  l := r.l
  f := r.f
  pc := p.resetPc
  sp := r.sp
  latch := none
  mem := m
  report := .idle
  bus := []
  reads := 0
  params := p

/-- The state right after reset: the launch state with the values the log names (entries 1 to 3, 5, 10, 11 and 17) and memory with
nothing listed, every byte 0x00 (R364). -/
def State.reset : State := State.launch Config.resetRegs Config.resetParams []

end Sys2Proof.Machine
end

