-- ==== Sys2Proof/Machine/Ops.lean ====
section
/-! DEFINITION. The named operations over memory, the bus and the registers, how a step ends, taking a fatal
condition, and the reset input. Every meaning is written over these. -/

namespace Sys2Proof.Machine

/-! ### Memory -/

/-- What an unlisted address reads as: memory is "zero-initialized" at construction (R364). -/
def Memory.initByte : Byte := 0

/-- The byte at an address. -/
def Memory.read : Memory → Nat → Byte
  | [], _ => Memory.initByte
  | (k, v) :: m, a => if k = a then v else Memory.read m a

/-- Store a byte, keeping the canonical form: a byte equal to `initByte` is not listed. -/
def Memory.write : Memory → Nat → Byte → Memory
  | [], a, v => if v = Memory.initByte then [] else [(a, v)]
  | (k, w) :: m, a, v =>
    if a < k then (if v = Memory.initByte then (k, w) :: m else (a, v) :: (k, w) :: m)
    else if a = k then (if v = Memory.initByte then m else (a, v) :: m)
    else (k, w) :: Memory.write m a v

/-- The canonical form from address `lo` on. -/
def Memory.wfFrom (lo : Nat) : Memory → Bool
  | [] => true
  | (k, v) :: m => decide (lo ≤ k) && decide (k < 65536) && (v != Memory.initByte) && Memory.wfFrom (k + 1) m

/-- The canonical form: addresses strictly rising and below 65536 (R50), no entry equal to `initByte`. -/
def Memory.wf (m : Memory) : Bool := Memory.wfFrom 0 m

/-- The byte memory holds at an address, with no bus transaction. -/
def State.byteAt (s : State) (a : Word) : Byte := Memory.read s.mem a.toNat

/-- A byte changed by the host between steps: no transaction of the block (R63 (a), R364). -/
def State.poke (s : State) (a : Word) (v : Byte) : State := { s with mem := Memory.write s.mem a.toNat v }

/-! ### Bus transactions -/

/-- What the environment answers the read of number `n` with (U10: "any value" supplied by an oracle). -/
def oracleAt : List (Nat × Byte) → Nat → Byte
  | [], n => Config.freeAnswer n
  | (k, v) :: l, n => if k = n then v else oracleAt l n

/-- What a read of `a` is answered with when `k` other reads come before it (R63): under the closed reading the byte
memory holds, under the open reading the environment's answer, whatever was written. -/
def State.answer (s : State) (k : Nat) (a : Word) : Byte :=
  match s.params.memory with
  | .closed => s.byteAt a
  | .opened answers => oracleAt answers (s.reads + k)

/-- `MemRead(addr, 1)` (R12, R42, R63): the answer, and the state with the transaction recorded and counted. -/
def State.memRead (s : State) (a : Word) : Byte × State :=
  (s.answer 0 a, { s with bus := s.bus ++ [.read a (s.answer 0 a)], reads := s.reads + 1 })

/-- `MemWrite(addr, 1, v)` (R12, R42). The write happens even when it changes nothing (R225). Under the open reading
it is an output (U10): no later read is answered from it. -/
def State.memWrite (s : State) (a : Word) (v : Byte) : State :=
  { s with mem := Memory.write s.mem a.toNat v, bus := s.bus ++ [.write a v] }

/-- `Read16(a)`: low byte first, the second address wrapping (R12, R55). -/
def State.read16 (s : State) (a : Word) : Word × State :=
  let lo := s.memRead a
  let hi := lo.2.memRead (a + 1)
  (mkWord hi.1 lo.1, hi.2)

/-- `imm8`, also `e8`: the byte after the opcode (R88, R89). -/
def State.imm8 (s : State) : Byte × State := s.memRead (s.pc + 1)

/-- `imm16` (R90). -/
def State.imm16 (s : State) : Word × State := s.read16 (s.pc + 1)

/-- `Push16(v)` (R261): high byte at `sp-1`, then low byte at `sp-2`. -/
def State.push16 (s : State) (v : Word) : State :=
  let s1 := s.memWrite (s.sp - 1) (hiByte v)
  let s2 := s1.memWrite (s.sp - 2) (loByte v)
  { s2 with sp := s.sp - 2 }

/-- `Pop16()` (R262): low byte at `sp`, then high byte at `sp+1`. -/
def State.pop16 (s : State) : Word × State :=
  let r := s.read16 s.sp
  (r.1, { r.2 with sp := s.sp + 2 })

/-! ### Registers -/

/-- `x[i]` (R11, R21). -/
def State.reg (s : State) : Reg8 → Byte
  | .a => s.a | .b => s.b | .c => s.c | .d => s.d | .e => s.e | .h => s.h | .l => s.l

/-- `x[i] <- v` (R11, R21). -/
def State.setReg (s : State) (r : Reg8) (v : Byte) : State :=
  match r with
  | .a => { s with a := v }
  | .b => { s with b := v }
  | .c => { s with c := v }
  | .d => { s with d := v }
  | .e => { s with e := v }
  | .h => { s with h := v }
  | .l => { s with l := v }

/-- `flags <- f`. -/
def State.setFlags (s : State) (f : Flags) : State := { s with f := f }

/-- The view BC (R22). -/
def State.bc (s : State) : Word := mkWord s.b s.c
/-- The view DE (R22). -/
def State.de (s : State) : Word := mkWord s.d s.e
/-- The view HL (R22). -/
def State.hl (s : State) : Word := mkWord s.h s.l
/-- The view AF (R22): A and the flags byte. -/
def State.af (s : State) : Word := mkWord s.a (flagsToByte s.f)

/-- `BC <- v` (R23). -/
def State.setBc (s : State) (v : Word) : State := { s with b := hiByte v, c := loByte v }
/-- `DE <- v` (R23). -/
def State.setDe (s : State) (v : Word) : State := { s with d := hiByte v, e := loByte v }
/-- `HL <- v` (R23). -/
def State.setHl (s : State) (v : Word) : State := { s with h := hiByte v, l := loByte v }
/-- `AF <- v` (R23, R28): the low nibble of the flags byte is dropped. -/
def State.setAf (s : State) (v : Word) : State := { s with a := hiByte v, f := flagsOfByte (loByte v) }

/-- `rp[i]` (R24). -/
def State.rp (s : State) : Rp → Word
  | .bc => s.bc | .de => s.de | .hl => s.hl | .sp => s.sp

/-- `rp[i] <- v` (R24). -/
def State.setRp (s : State) (p : Rp) (v : Word) : State :=
  match p with
  | .bc => s.setBc v
  | .de => s.setDe v
  | .hl => s.setHl v
  | .sp => { s with sp := v }

/-- `rp2[i]` (R25). -/
def State.rp2 (s : State) : Rp2 → Word
  | .bc => s.bc | .de => s.de | .hl => s.hl | .af => s.af

/-- `rp2[i] <- v` (R25). -/
def State.setRp2 (s : State) (q : Rp2) (v : Word) : State :=
  match q with
  | .bc => s.setBc v
  | .de => s.setDe v
  | .hl => s.setHl v
  | .af => s.setAf v

/-! ### The figures of the `cycles` output -/

/-- Two instructions of the same row of the opcode table: the same constructor, whatever the field values. -/
def sameRow (i j : Instr) : Bool := i.ctorIdx == j.ctorIdx

/-- The figure a list of replacements gives a row and an outcome, `n` where it has no entry for them. -/
def replacedFigure : List CycleEntry → Instr → Bool → Nat → Nat
  | [], _, _, n => n
  | e :: l, i, tk, n => if sameRow e.form i && e.taken == tk then e.cycles else replacedFigure l i tk n

/-- `CYCLES(form, taken)` (R292, R372): `n`, the figure of the instruction's rule, unless the parameter replaces it. -/
def State.figure (s : State) (i : Instr) (taken : Bool) (n : Nat) : Nat := replacedFigure s.params.cycles i taken n

/-! ### How a step ends -/

/-- Commit `pc` and the outputs (R291, R292). -/
def State.commit (s : State) (target : Word) (cycles : Nat) (hook : Hook) : Result :=
  .next { s with pc := target, report := .completed cycles hook }

/-- The end of an instruction that is no taken transfer: `pc <- (pc + length) mod 65536` (R282, R291). -/
def State.finish (s : State) (length cycles : Nat) : Result :=
  s.commit (s.pc + BitVec.ofNat 16 length) cycles .none

/-- The end of a taken transfer (R260). -/
def State.jump (s : State) (target : Word) (cycles : Nat) : Result :=
  s.commit target cycles .none

/-- The end of a hook instruction (R295 to R299): one byte, and the hook shown on the output. -/
def State.hooked (s : State) (hook : Hook) (cycles : Nat) : Result :=
  s.commit (s.pc + 1) cycles hook

/-! ### Taking a fatal condition, and leaving the stopped state -/

/-- Taking a fatal condition (R322, R323, R328): the record goes into the fault latch and onto the `fault` output.
No register, flag, `sp`, `pc` or memory byte changes; no cycle count and no hook are output. `pc` still addresses the
first byte of the failing instruction, which is what the record holds. -/
def State.raise (s : State) (kind : FatalKind) (opcode : Byte) (prefixed : Bool) : Result :=
  let r : FaultRecord := ⟨kind, opcode, prefixed, s.pc⟩
  .next { s with latch := some r, report := .fatal r }

/-- The reset input, asserted between steps (R360 to R364): the one way out of the stopped state (there is no return
from a fatal condition, R329). Registers, flags and `sp` take the unspecified values `r`; memory is the external
collaborator's and stays, and so do its answers, which do not start anew (`reads`); the parameters are the machine's
and stay (log entry 18). -/
def State.assertReset (r : ResetRegs) (s : State) : State := { State.launch r s.params s.mem with reads := s.reads }

end Sys2Proof.Machine
end

