-- ==== Sys2Proof/Machine/Alu.lean ====
section
/-! DEFINITION. The Arithmetic/Logical Unit instructions (spec/40_alu.md). -/

namespace Sys2Proof.Machine

/-! ### The three operand paths of the two-operand operations (R120, R121) -/

/-- Write the accumulator and the flags from a result. -/
def State.setAcc (s : State) (r : ByteResult) : State := { s with a := r.val, f := r.flags }

/-- The HL-indirect path: `UnimplementedOperand` before any read when it is unwired, else `op` on the byte at HL. -/
def aluHlInd (i : Instr) (opcode : Byte) (op : Byte → State → State) (s : State) : Result :=
  if s.params.unwired.alu8HlInd then s.raise .unimplementedOperand opcode false
  else
    let v := s.memRead s.hl
    (op v.1 v.2).finish 1 (s.figure i true 8)

/-- The immediate path: `UnimplementedOperand` before any read when it is unwired, else `op` on the immediate byte. -/
def aluImm (i : Instr) (opcode : Byte) (op : Byte → State → State) (s : State) : Result :=
  if s.params.unwired.alu8Imm then s.raise .unimplementedOperand opcode false
  else
    let v := s.imm8
    (op v.1 v.2).finish 2 (s.figure i true 8)

/-! ### The eight operations on a second operand `v` -/

/-- ADD (R123 to R125). -/
def addAcc (v : Byte) (s : State) : State := s.setAcc (add8 s.a v false)
/-- ADC (R126 to R128): the carry flag is the carry-in. -/
def adcAcc (v : Byte) (s : State) : State := s.setAcc (add8 s.a v s.f.c)
/-- SUB (R129 to R131). -/
def subAcc (v : Byte) (s : State) : State := s.setAcc (sub8 s.a v false)
/-- SBC (R132 to R134): the carry flag is the borrow-in. -/
def sbcAcc (v : Byte) (s : State) : State := s.setAcc (sub8 s.a v s.f.c)
/-- AND (R135 to R137). -/
def andAcc (v : Byte) (s : State) : State := s.setAcc (and8 s.a v)
/-- XOR (R138 to R140). -/
def xorAcc (v : Byte) (s : State) : State := s.setAcc (xor8 s.a v)
/-- OR (R141 to R143). -/
def orAcc (v : Byte) (s : State) : State := s.setAcc (or8 s.a v)
/-- CP (R144 to R146): "identical to SUB but result discarded". -/
def cpAcc (v : Byte) (s : State) : State := s.setFlags (sub8 s.a v false).flags

/-- `ADD A,r` (R123). -/
def execAddAR (r : Reg8) (s : State) : Result := (addAcc (s.reg r) s).finish 1 (s.figure (.addAR r) true 4)
/-- `ADD A,(HL)` (R124). -/
def execAddAHl (s : State) : Result := aluHlInd .addAHl 0x86 addAcc s
/-- `ADD A,n` (R125). -/
def execAddAN (s : State) : Result := aluImm .addAN 0xC6 addAcc s
/-- `ADC A,r` (R126). -/
def execAdcAR (r : Reg8) (s : State) : Result := (adcAcc (s.reg r) s).finish 1 (s.figure (.adcAR r) true 4)
/-- `ADC A,(HL)` (R127). -/
def execAdcAHl (s : State) : Result := aluHlInd .adcAHl 0x8E adcAcc s
/-- `ADC A,n` (R128). -/
def execAdcAN (s : State) : Result := aluImm .adcAN 0xCE adcAcc s
/-- `SUB r` (R129). -/
def execSubR (r : Reg8) (s : State) : Result := (subAcc (s.reg r) s).finish 1 (s.figure (.subR r) true 4)
/-- `SUB (HL)` (R130). -/
def execSubHl (s : State) : Result := aluHlInd .subHl 0x96 subAcc s
/-- `SUB n` (R131). -/
def execSubN (s : State) : Result := aluImm .subN 0xD6 subAcc s
/-- `SBC A,r` (R132). -/
def execSbcAR (r : Reg8) (s : State) : Result := (sbcAcc (s.reg r) s).finish 1 (s.figure (.sbcAR r) true 4)
/-- `SBC A,(HL)` (R133). -/
def execSbcAHl (s : State) : Result := aluHlInd .sbcAHl 0x9E sbcAcc s
/-- `SBC A,n` (R134). -/
def execSbcAN (s : State) : Result := aluImm .sbcAN 0xDE sbcAcc s
/-- `AND r` (R135). -/
def execAndR (r : Reg8) (s : State) : Result := (andAcc (s.reg r) s).finish 1 (s.figure (.andR r) true 4)
/-- `AND (HL)` (R136). -/
def execAndHl (s : State) : Result := aluHlInd .andHl 0xA6 andAcc s
/-- `AND n` (R137). -/
def execAndN (s : State) : Result := aluImm .andN 0xE6 andAcc s
/-- `XOR r` (R138). -/
def execXorR (r : Reg8) (s : State) : Result := (xorAcc (s.reg r) s).finish 1 (s.figure (.xorR r) true 4)
/-- `XOR (HL)` (R139). -/
def execXorHl (s : State) : Result := aluHlInd .xorHl 0xAE xorAcc s
/-- `XOR n` (R140). -/
def execXorN (s : State) : Result := aluImm .xorN 0xEE xorAcc s
/-- `OR r` (R141). -/
def execOrR (r : Reg8) (s : State) : Result := (orAcc (s.reg r) s).finish 1 (s.figure (.orR r) true 4)
/-- `OR (HL)` (R142). -/
def execOrHl (s : State) : Result := aluHlInd .orHl 0xB6 orAcc s
/-- `OR n` (R143). -/
def execOrN (s : State) : Result := aluImm .orN 0xF6 orAcc s
/-- `CP r` (R144). -/
def execCpR (r : Reg8) (s : State) : Result := (cpAcc (s.reg r) s).finish 1 (s.figure (.cpR r) true 4)
/-- `CP (HL)` (R145). -/
def execCpHl (s : State) : Result := aluHlInd .cpHl 0xBE cpAcc s
/-- `CP n` (R146). -/
def execCpN (s : State) : Result := aluImm .cpN 0xFE cpAcc s

/-! ### INC, DEC (8-bit) -/

/-- A one-operand operation on a register: the register and the flags. -/
def onRegister (r : Reg8) (o : ByteResult) (s : State) : State := (s.setReg r o.val).setFlags o.flags

/-- A read-modify-write of the byte at HL (R57, R58): one read, then one write of the same address. -/
def onHlByte (op : Byte → Flags → ByteResult) (s : State) : State :=
  let v := s.memRead s.hl
  let o := op v.1 s.f
  (v.2.memWrite s.hl o.val).setFlags o.flags

/-- `INC (HL)` and `DEC (HL)`: unwired when `INCDEC8_HLIND` is in `UNWIRED` (R122). -/
def incDecHl (i : Instr) (opcode : Byte) (op : Byte → Flags → ByteResult) (s : State) : Result :=
  if s.params.unwired.incDec8HlInd then s.raise .unimplementedOperand opcode false
  else (onHlByte op s).finish 1 (s.figure i true 12)

/-- `INC r` (R150). -/
def execIncR (r : Reg8) (s : State) : Result :=
  (onRegister r (inc8 (s.reg r) s.f) s).finish 1 (s.figure (.incR r) true 4)
/-- `INC (HL)` (R151). -/
def execIncHl (s : State) : Result := incDecHl .incHl 0x34 inc8 s
/-- `DEC r` (R152). -/
def execDecR (r : Reg8) (s : State) : Result :=
  (onRegister r (dec8 (s.reg r) s.f) s).finish 1 (s.figure (.decR r) true 4)
/-- `DEC (HL)` (R153). -/
def execDecHl (s : State) : Result := incDecHl .decHl 0x35 dec8 s

/-! ### 16-bit -/

/-- `INC rr` (R154). -/
def execIncRp (p : Rp) (s : State) : Result := (s.setRp p (s.rp p + 1)).finish 1 (s.figure (.incRp p) true 8)
/-- `DEC rr` (R155). -/
def execDecRp (p : Rp) (s : State) : Result := (s.setRp p (s.rp p - 1)).finish 1 (s.figure (.decRp p) true 8)
/-- `ADD HL,rr` (R160). -/
def execAddHlRp (p : Rp) (s : State) : Result :=
  let o := addHl16 s.params.addHlH s.hl (s.rp p) s.f
  ((s.setHl o.val).setFlags o.flags).finish 1 (s.figure (.addHlRp p) true 8)
/-- `ADD SP,e` (R161). -/
def execAddSpE (s : State) : Result :=
  let e := s.imm8
  let o := addSpDisp s.sp e.1
  ({ e.2 with sp := o.val }.setFlags o.flags).finish 2 (s.figure .addSpE true 16)

/-! ### DAA, CPL, SCF, CCF -/

/-- `DAA` (R165). -/
def execDaa (s : State) : Result := (s.setAcc (daa8 s.a s.f)).finish 1 (s.figure .daa true 4)
/-- `CPL` (R166). -/
def execCpl (s : State) : Result := (s.setAcc ⟨~~~s.a, ⟨s.f.z, true, true, s.f.c⟩⟩).finish 1 (s.figure .cpl true 4)
/-- `SCF` (R167). -/
def execScf (s : State) : Result := (s.setFlags ⟨s.f.z, false, false, true⟩).finish 1 (s.figure .scf true 4)
/-- `CCF` (R168). -/
def execCcf (s : State) : Result := (s.setFlags ⟨s.f.z, false, false, !s.f.c⟩).finish 1 (s.figure .ccf true 4)

end Sys2Proof.Machine
end

