-- ==== Sys2Proof/Machine/Bits.lean ====
section
/-! DEFINITION. The Bit-Manipulation Unit instructions (spec/42_bitmanip.md): the accumulator rotates and the prefixed
set. `pc` is the address of the 0xCB byte, and a prefixed instruction is two bytes long (R224). -/

namespace Sys2Proof.Machine

/-! ### Accumulator rotates -/

/-- An accumulator rotate: Z is cleared whatever the result. -/
def accRotate (i : Instr) (o : ByteResult) (s : State) : Result :=
  ({ s with a := o.val }.setFlags (withoutZero o).flags).finish 1 (s.figure i true 4)

/-- `RLCA` (R220). -/
def execRlca (s : State) : Result := accRotate .rlca (rlc8 s.a) s
/-- `RRCA` (R221). -/
def execRrca (s : State) : Result := accRotate .rrca (rrc8 s.a) s
/-- `RLA` (R222). -/
def execRla (s : State) : Result := accRotate .rla (rl8 s.a s.f.c) s
/-- `RRA` (R223). -/
def execRra (s : State) : Result := accRotate .rra (rr8 s.a s.f.c) s

/-! ### The two operand forms of the prefixed set (R225) -/

/-- A register operand: read, write back, flags; 8 cycles. -/
def cbReg (i : Instr) (op : Byte → Flags → ByteResult) (r : Reg8) (s : State) : Result :=
  let o := op (s.reg r) s.f
  ((s.setReg r o.val).setFlags o.flags).finish 2 (s.figure i true 8)

/-- The HL-indirect operand: one read, one write of the same address even when the value is the same; 16 cycles. -/
def cbHl (i : Instr) (op : Byte → Flags → ByteResult) (s : State) : Result :=
  let v := s.memRead s.hl
  let o := op v.1 s.f
  ((v.2.memWrite s.hl o.val).setFlags o.flags).finish 2 (s.figure i true 16)

/-! ### Rotates, shifts, swap -/

/-- `RLC r` (R226). -/
def execRlcR (r : Reg8) (s : State) : Result := cbReg (.rlcR r) (fun v _ => rlc8 v) r s
/-- `RLC (HL)` (R227). -/
def execRlcHl (s : State) : Result := cbHl .rlcHl (fun v _ => rlc8 v) s
/-- `RRC r` (R228). -/
def execRrcR (r : Reg8) (s : State) : Result := cbReg (.rrcR r) (fun v _ => rrc8 v) r s
/-- `RRC (HL)` (R229). -/
def execRrcHl (s : State) : Result := cbHl .rrcHl (fun v _ => rrc8 v) s
/-- `RL r` (R230). -/
def execRlR (r : Reg8) (s : State) : Result := cbReg (.rlR r) (fun v f => rl8 v f.c) r s
/-- `RL (HL)` (R231). -/
def execRlHl (s : State) : Result := cbHl .rlHl (fun v f => rl8 v f.c) s
/-- `RR r` (R232). -/
def execRrR (r : Reg8) (s : State) : Result := cbReg (.rrR r) (fun v f => rr8 v f.c) r s
/-- `RR (HL)` (R233). -/
def execRrHl (s : State) : Result := cbHl .rrHl (fun v f => rr8 v f.c) s
/-- `SLA r` (R234). -/
def execSlaR (r : Reg8) (s : State) : Result := cbReg (.slaR r) (fun v _ => sla8 v) r s
/-- `SLA (HL)` (R235). -/
def execSlaHl (s : State) : Result := cbHl .slaHl (fun v _ => sla8 v) s
/-- `SRA r` (R236). -/
def execSraR (r : Reg8) (s : State) : Result := cbReg (.sraR r) (fun v _ => sra8 v) r s
/-- `SRA (HL)` (R237). -/
def execSraHl (s : State) : Result := cbHl .sraHl (fun v _ => sra8 v) s
/-- `SWAP r` (R238). -/
def execSwapR (r : Reg8) (s : State) : Result := cbReg (.swapR r) (fun v _ => swap8 v) r s
/-- `SWAP (HL)` (R239). -/
def execSwapHl (s : State) : Result := cbHl .swapHl (fun v _ => swap8 v) s
/-- `SRL r` (R240). -/
def execSrlR (r : Reg8) (s : State) : Result := cbReg (.srlR r) (fun v _ => srl8 v) r s
/-- `SRL (HL)` (R241). -/
def execSrlHl (s : State) : Result := cbHl .srlHl (fun v _ => srl8 v) s

/-! ### Bit test, reset, set -/

/-- `BIT b,r` (R242): no register is written. -/
def execBitR (i : Fin 8) (r : Reg8) (s : State) : Result :=
  (s.setFlags (bitFlags i (s.reg r) s.f)).finish 2 (s.figure (.bitR i r) true 8)
/-- `BIT b,(HL)` (R243): one read, no write. -/
def execBitHl (i : Fin 8) (s : State) : Result :=
  let v := s.memRead s.hl
  (v.2.setFlags (bitFlags i v.1 s.f)).finish 2 (s.figure (.bitHl i) true 16)
/-- `RES b,r` (R244). -/
def execResR (i : Fin 8) (r : Reg8) (s : State) : Result := cbReg (.resR i r) (fun v f => ⟨resBit i v, f⟩) r s
/-- `RES b,(HL)` (R245). -/
def execResHl (i : Fin 8) (s : State) : Result := cbHl (.resHl i) (fun v f => ⟨resBit i v, f⟩) s
/-- `SET b,r` (R246). -/
def execSetR (i : Fin 8) (r : Reg8) (s : State) : Result := cbReg (.setR i r) (fun v f => ⟨setBit i v, f⟩) r s
/-- `SET b,(HL)` (R247). -/
def execSetHl (i : Fin 8) (s : State) : Result := cbHl (.setHl i) (fun v f => ⟨setBit i v, f⟩) s

end Sys2Proof.Machine
end

