-- ==== Sys2Proof/Machine/Control.lean ====
section
/-! DEFINITION. The Control-Flow Unit instructions (spec/43_control_flow.md). None faults, and only `POP AF` writes a
flag. Immediate bytes are read whether or not the transfer is taken (R60, R264, R267, R270). -/

namespace Sys2Proof.Machine

/-- `JP nn` (R263). -/
def execJpNn (s : State) : Result :=
  let nn := s.imm16
  nn.2.jump nn.1 (s.figure .jpNn true 16)
/-- `JP cc,nn` (R264). -/
def execJpCcNn (cc : Cond) (s : State) : Result :=
  let nn := s.imm16
  if condHolds cc s.f then nn.2.jump nn.1 (s.figure (.jpCcNn cc) true 16)
  else nn.2.finish 3 (s.figure (.jpCcNn cc) false 12)
/-- `JP HL` (R265): memory at HL is not read. -/
def execJpHl (s : State) : Result := s.jump s.hl (s.figure .jpHl true 4)

/-- `JR e` (R266). -/
def execJrE (s : State) : Result :=
  let e := s.imm8
  e.2.jump (relTarget s.pc e.1) (s.figure .jrE true 16)
/-- `JR cc,e` (R267). -/
def execJrCcE (cc : Cond) (s : State) : Result :=
  let e := s.imm8
  if condHolds cc s.f then e.2.jump (relTarget s.pc e.1) (s.figure (.jrCcE cc) true 16)
  else e.2.finish 2 (s.figure (.jrCcE cc) false 12)

/-- `CALL nn` (R269): both immediate bytes are read before the two stack writes. -/
def execCallNn (s : State) : Result :=
  let nn := s.imm16
  (nn.2.push16 (s.pc + 3)).jump nn.1 (s.figure .callNn true 24)
/-- `CALL cc,nn` (R270). -/
def execCallCcNn (cc : Cond) (s : State) : Result :=
  let nn := s.imm16
  if condHolds cc s.f then (nn.2.push16 (s.pc + 3)).jump nn.1 (s.figure (.callCcNn cc) true 24)
  else nn.2.finish 3 (s.figure (.callCcNn cc) false 12)
/-- `RET` (R272). -/
def execRet (s : State) : Result :=
  let v := s.pop16
  v.2.jump v.1 (s.figure .ret true 16)
/-- `RET cc` (R273): not taken, no memory is read. -/
def execRetCc (cc : Cond) (s : State) : Result :=
  if condHolds cc s.f then
    let v := s.pop16
    v.2.jump v.1 (s.figure (.retCc cc) true 20)
  else s.finish 1 (s.figure (.retCc cc) false 8)
/-- `RST t` (R275). -/
def execRst (t : Fin 8) (s : State) : Result := (s.push16 (s.pc + 1)).jump (rstVector t) (s.figure (.rst t) true 16)

/-- `PUSH BC`, `PUSH DE`, `PUSH HL` (R278). -/
def execPushRr (q : Rp2) (s : State) : Result := (s.push16 (s.rp2 q)).finish 1 (s.figure (.pushRr q) true 16)
/-- `PUSH AF` (R279). -/
def execPushAf (s : State) : Result := (s.push16 s.af).finish 1 (s.figure .pushAf true 16)
/-- `POP BC`, `POP DE`, `POP HL` (R280). -/
def execPopRr (q : Rp2) (s : State) : Result :=
  let v := s.pop16
  (v.2.setRp2 q v.1).finish 1 (s.figure (.popRr q) true 12)
/-- `POP AF` (R281): bits 3 to 0 of the popped low byte are discarded. -/
def execPopAf (s : State) : Result :=
  let v := s.pop16
  (v.2.setAf v.1).finish 1 (s.figure .popAf true 12)

end Sys2Proof.Machine
end

