-- ==== Sys2Proof/Machine/Load.lean ====
section
/-! DEFINITION. The Load Unit instructions (spec/41_load.md). No load faults and, but for `LD HL,SP+e`, none writes a
flag (R180). -/

namespace Sys2Proof.Machine

/-- Load the accumulator from an address. -/
def State.loadAcc (s : State) (a : Word) : State :=
  let v := s.memRead a
  { v.2 with a := v.1 }

/-- `LD r,r'` (R181). -/
def execLdRR (rd rs : Reg8) (s : State) : Result := (s.setReg rd (s.reg rs)).finish 1 (s.figure (.ldRR rd rs) true 4)
/-- `LD r,n` (R182). -/
def execLdRN (rd : Reg8) (s : State) : Result :=
  let v := s.imm8
  (v.2.setReg rd v.1).finish 2 (s.figure (.ldRN rd) true 8)
/-- `LD r,(HL)` (R183): the address is HL from before the instruction. -/
def execLdRHl (rd : Reg8) (s : State) : Result :=
  let v := s.memRead s.hl
  (v.2.setReg rd v.1).finish 1 (s.figure (.ldRHl rd) true 8)
/-- `LD (HL),r` (R184). -/
def execLdHlR (r : Reg8) (s : State) : Result := (s.memWrite s.hl (s.reg r)).finish 1 (s.figure (.ldHlR r) true 8)
/-- `LD (HL),n` (R185): the immediate is read before the write (R60). -/
def execLdHlN (s : State) : Result :=
  let v := s.imm8
  (v.2.memWrite s.hl v.1).finish 2 (s.figure .ldHlN true 12)

/-- `LD A,(BC)` (R186). -/
def execLdABc (s : State) : Result := (s.loadAcc s.bc).finish 1 (s.figure .ldABc true 8)
/-- `LD A,(DE)` (R187). -/
def execLdADe (s : State) : Result := (s.loadAcc s.de).finish 1 (s.figure .ldADe true 8)
/-- `LD (BC),A` (R188). -/
def execLdBcA (s : State) : Result := (s.memWrite s.bc s.a).finish 1 (s.figure .ldBcA true 8)
/-- `LD (DE),A` (R189). -/
def execLdDeA (s : State) : Result := (s.memWrite s.de s.a).finish 1 (s.figure .ldDeA true 8)
/-- `LD A,(HL+)` (R190): HL changes after the access. -/
def execLdAHli (s : State) : Result := ((s.loadAcc s.hl).setHl (s.hl + 1)).finish 1 (s.figure .ldAHli true 8)
/-- `LD A,(HL-)` (R191). -/
def execLdAHld (s : State) : Result := ((s.loadAcc s.hl).setHl (s.hl - 1)).finish 1 (s.figure .ldAHld true 8)
/-- `LD (HL+),A` (R192). -/
def execLdHliA (s : State) : Result := ((s.memWrite s.hl s.a).setHl (s.hl + 1)).finish 1 (s.figure .ldHliA true 8)
/-- `LD (HL-),A` (R193). -/
def execLdHldA (s : State) : Result := ((s.memWrite s.hl s.a).setHl (s.hl - 1)).finish 1 (s.figure .ldHldA true 8)

/-- `LD A,(nn)` (R194). -/
def execLdANn (s : State) : Result :=
  let nn := s.imm16
  (nn.2.loadAcc nn.1).finish 3 (s.figure .ldANn true 16)
/-- `LD (nn),A` (R195). -/
def execLdNnA (s : State) : Result :=
  let nn := s.imm16
  (nn.2.memWrite nn.1 s.a).finish 3 (s.figure .ldNnA true 16)

/-- `LDH A,(n)` (R196). -/
def execLdhAN (s : State) : Result :=
  let n := s.imm8
  (n.2.loadAcc (highPage n.1)).finish 2 (s.figure .ldhAN true 12)
/-- `LDH (n),A` (R197). -/
def execLdhNA (s : State) : Result :=
  let n := s.imm8
  (n.2.memWrite (highPage n.1) s.a).finish 2 (s.figure .ldhNA true 12)
/-- `LDH A,(C)` (R198). -/
def execLdhAC (s : State) : Result := (s.loadAcc (highPage s.c)).finish 1 (s.figure .ldhAC true 8)
/-- `LDH (C),A` (R199). -/
def execLdhCA (s : State) : Result := (s.memWrite (highPage s.c) s.a).finish 1 (s.figure .ldhCA true 8)

/-- `LD rr,nn` (R200). -/
def execLdRpNn (p : Rp) (s : State) : Result :=
  let nn := s.imm16
  (nn.2.setRp p nn.1).finish 3 (s.figure (.ldRpNn p) true 12)
/-- `LD SP,HL` (R204). -/
def execLdSpHl (s : State) : Result := { s with sp := s.hl }.finish 1 (s.figure .ldSpHl true 8)
/-- `LD HL,SP+e` (R205): `sp` is not changed. -/
def execLdHlSpE (s : State) : Result :=
  let e := s.imm8
  let o := addSpDisp s.sp e.1
  ((e.2.setHl o.val).setFlags o.flags).finish 2 (s.figure .ldHlSpE true 12)
/-- `LD (nn),SP` (R206): low byte first, the second address wrapping. -/
def execLdNnSp (s : State) : Result :=
  let nn := s.imm16
  let s1 := nn.2.memWrite nn.1 (loByte s.sp)
  (s1.memWrite (nn.1 + 1) (hiByte s.sp)).finish 3 (s.figure .ldNnSp true 20)

end Sys2Proof.Machine
end

