-- ==== Sys2Proof/WellFormed.lean ====
section
/-! DEFINITION. Which terms of `Instr` stand for an instruction of the machine. Register, pair, condition, bit and
vector fields cannot be out of range by their types; what is left to check is the field value the table excludes, the
prefix marker and the rows with no mapping. -/

namespace Sys2Proof

/-- A row of format NONE: a byte of `ILLEGAL`, "no mapping" (spec/30_encoding.md R96). -/
def Instr.noMapping : Instr → Bool
  | .illegalD3 | .illegalDB | .illegalDD | .illegalE3 | .illegalE4 | .illegalEB | .illegalEC | .illegalED
  | .illegalF4 | .illegalFC | .illegalFD => true
  | _ => false

/-- The marker of the prefix byte, "not an instruction" (spec/44_orchestrator.md R293). -/
def Instr.isMarker : Instr → Bool
  | .prefixCb => true
  | _ => false

/-- The row's field values are those the table allows: `PUSH rr` and `POP rr` exclude pair code 3, whose words are the
rows `PUSH AF` and `POP AF` (R278 to R281). -/
def Instr.fieldsAllowed : Instr → Bool
  | .pushRr q | .popRr q => q != .af
  | _ => true

/-- An instruction: mapped, not the marker, and with allowed field values. -/
def Instr.wellFormed (i : Instr) : Bool :=
  !i.noMapping && !i.isMarker && i.fieldsAllowed

end Sys2Proof
end

