-- ==== Sys2Proof/Decode.lean ====
section
/-! DEFINITION. The decoder (spec/30_encoding.md R80 to R102) and, after it, the encoder. The two decode tables are
total functions of one byte. A byte with no mapping decodes to the row of format NONE that names it (`illegalD3` and
so on): that row IS the explicit "no mapping" result of R98, and `decodeByte` gives it as `none`, as it does for every
other byte of the parameter `ILLEGAL` (log entry 11). Opcode byte values
are the published table's, as the spec gives them from general knowledge: UNVERIFIED (log entry 8). -/

namespace Sys2Proof

/-! ### Fields of an opcode byte (R82) -/

/-- `x = op[7:6]`. -/
def opX (op : Byte) : Nat := op.toNat / 64
/-- `y = op[5:3]`, which is also `d`, `t` and `b`. -/
def opY (op : Byte) : Nat := op.toNat / 8 % 8
/-- `z = op[2:0]`, which is also `s`. -/
def opZ (op : Byte) : Nat := op.toNat % 8
/-- `op[5:4]`, the fields `p` and `q` of the pair selectors. -/
def opP (op : Byte) : Nat := op.toNat / 16 % 4
/-- `op[3]`. -/
def opQ (op : Byte) : Nat := op.toNat / 8 % 2
/-- `c = op[4:3]`. -/
def opC (op : Byte) : Nat := op.toNat / 8 % 4
/-- `y` as a bit index or a vector index. -/
def opIndex (op : Byte) : Fin 8 := ⟨op.toNat / 8 % 8, Nat.mod_lt _ (by decide)⟩

/-- The operand a 3-bit code selects (R21): a register, or `none` for code 6, the HL-indirect byte. -/
def reg8Of : Nat → Option Reg8
  | 0 => some .b | 1 => some .c | 2 => some .d | 3 => some .e
  | 4 => some .h | 5 => some .l | 6 => none | _ => some .a

/-- R24. -/
def rpOf : Nat → Rp
  | 0 => .bc | 1 => .de | 2 => .hl | _ => .sp

/-- R14. -/
def condOf : Nat → Cond
  | 0 => .nz | 1 => .z | 2 => .nc | _ => .c

/-- A row that exists for a register operand and for the HL-indirect byte. -/
def onOperand (o : Option Reg8) (reg : Reg8 → Instr) (hlInd : Instr) : Instr :=
  match o with
  | some r => reg r
  | none => hlInd

/-! ### The unprefixed table (R95), by `x` -/

/-- Bytes 0x00 to 0x3F. -/
def rowX0 (op : Byte) : Instr :=
  match opZ op with
  | 0 =>
    match opY op with
    | 0 => .nop
    | 1 => .ldNnSp
    | 2 => .stop
    | 3 => .jrE
    | _ => .jrCcE (condOf (opC op))
  | 1 => if opQ op = 0 then .ldRpNn (rpOf (opP op)) else .addHlRp (rpOf (opP op))
  | 2 =>
    match opY op with
    | 0 => .ldBcA
    | 1 => .ldABc
    | 2 => .ldDeA
    | 3 => .ldADe
    | 4 => .ldHliA
    | 5 => .ldAHli
    | 6 => .ldHldA
    | _ => .ldAHld
  | 3 => if opQ op = 0 then .incRp (rpOf (opP op)) else .decRp (rpOf (opP op))
  | 4 => onOperand (reg8Of (opY op)) .incR .incHl
  | 5 => onOperand (reg8Of (opY op)) .decR .decHl
  | 6 => onOperand (reg8Of (opY op)) .ldRN .ldHlN
  | _ =>
    match opY op with
    | 0 => .rlca
    | 1 => .rrca
    | 2 => .rla
    | 3 => .rra
    | 4 => .daa
    | 5 => .cpl
    | 6 => .scf
    | _ => .ccf

/-- Bytes 0x40 to 0x7F: the 8-bit loads, and `HALT` where both codes are 6. -/
def rowX1 (op : Byte) : Instr :=
  match reg8Of (opY op), reg8Of (opZ op) with
  | some rd, some rs => .ldRR rd rs
  | some rd, none => .ldRHl rd
  | none, some rs => .ldHlR rs
  | none, none => .halt

/-- Bytes 0x80 to 0xBF: the 8-bit ALU on `r` and `(HL)`, operation code `y` (R92). -/
def rowX2 (op : Byte) : Instr :=
  let o := reg8Of (opZ op)
  match opY op with
  | 0 => onOperand o .addAR .addAHl
  | 1 => onOperand o .adcAR .adcAHl
  | 2 => onOperand o .subR .subHl
  | 3 => onOperand o .sbcAR .sbcAHl
  | 4 => onOperand o .andR .andHl
  | 5 => onOperand o .xorR .xorHl
  | 6 => onOperand o .orR .orHl
  | _ => onOperand o .cpR .cpHl

/-- `PUSH rr` and `PUSH AF` (R278, R279). -/
def pushRow : Nat → Instr
  | 0 => .pushRr .bc | 1 => .pushRr .de | 2 => .pushRr .hl | _ => .pushAf

/-- `POP rr` and `POP AF` (R280, R281). -/
def popRow : Nat → Instr
  | 0 => .popRr .bc | 1 => .popRr .de | 2 => .popRr .hl | _ => .popAf

/-- Bytes 0xC0 to 0xFF. -/
def rowX3 (op : Byte) : Instr :=
  match opZ op with
  | 0 =>
    match opY op with
    | 4 => .ldhNA
    | 5 => .addSpE
    | 6 => .ldhAN
    | 7 => .ldHlSpE
    | _ => .retCc (condOf (opC op))
  | 1 =>
    match opY op with
    | 1 => .ret
    | 3 => .reti
    | 5 => .jpHl
    | 7 => .ldSpHl
    | _ => popRow (opP op)
  | 2 =>
    match opY op with
    | 4 => .ldhCA
    | 5 => .ldNnA
    | 6 => .ldhAC
    | 7 => .ldANn
    | _ => .jpCcNn (condOf (opC op))
  | 3 =>
    match opY op with
    | 0 => .jpNn
    | 1 => .prefixCb
    | 2 => .illegalD3
    | 3 => .illegalDB
    | 4 => .illegalE3
    | 5 => .illegalEB
    | 6 => .di
    | _ => .ei
  | 4 =>
    match opY op with
    | 4 => .illegalE4
    | 5 => .illegalEC
    | 6 => .illegalF4
    | 7 => .illegalFC
    | _ => .callCcNn (condOf (opC op))
  | 5 =>
    match opY op with
    | 1 => .callNn
    | 3 => .illegalDD
    | 5 => .illegalED
    | 7 => .illegalFD
    | _ => pushRow (opP op)
  | 6 =>
    match opY op with
    | 0 => .addAN
    | 1 => .adcAN
    | 2 => .subN
    | 3 => .sbcAN
    | 4 => .andN
    | 5 => .xorN
    | 6 => .orN
    | _ => .cpN
  | _ => .rst (opIndex op)

/-- The unprefixed table: the row of the first byte (R95, R96). -/
def unprefixedRow (op : Byte) : Instr :=
  match opX op with
  | 0 => rowX0 op
  | 1 => rowX1 op
  | 2 => rowX2 op
  | _ => rowX3 op

/-! ### The prefixed table (R97) -/

/-- The prefixed table: the row of the byte after 0xCB (R87, R93, R97). -/
def prefixedRow (op : Byte) : Instr :=
  let o := reg8Of (opZ op)
  match opX op with
  | 0 =>
    match opY op with
    | 0 => onOperand o .rlcR .rlcHl
    | 1 => onOperand o .rrcR .rrcHl
    | 2 => onOperand o .rlR .rlHl
    | 3 => onOperand o .rrR .rrHl
    | 4 => onOperand o .slaR .slaHl
    | 5 => onOperand o .sraR .sraHl
    | 6 => onOperand o .swapR .swapHl
    | _ => onOperand o .srlR .srlHl
  | 1 => onOperand o (.bitR (opIndex op)) (.bitHl (opIndex op))
  | 2 => onOperand o (.resR (opIndex op)) (.resHl (opIndex op))
  | _ => onOperand o (.setR (opIndex op)) (.setHl (opIndex op))

/-! ### The decoder -/

/-- The decoder contract of R98 for a set `ILLEGAL`: one raw byte and the flag "second byte of a prefixed
instruction", to an instruction or the explicit "no mapping". The byte 0xCB maps to the marker (R99), which R290 takes
before it asks the decoder, so no set reaches it; the prefixed table maps every byte (R97). -/
def decodeByte (illegal : List Byte) (op : Byte) (prefixed : Bool) : Option Instr :=
  let i := if prefixed then prefixedRow op else unprefixedRow op
  if i.noMapping || (!prefixed && op != 0xCB && illegal.contains op) then none else some i

/-- Why a byte list holds no row. -/
inductive DecodeError where
  /-- There is no byte to decode. -/
  | noByte
  deriving DecidableEq, Repr

/-- Decode at the head of a byte list: the row, and the bytes after its opcode bytes (the immediates and what
follows). After 0xCB the next byte is always taken in the prefixed table (R293); a lone 0xCB is the marker. Total: a
byte with no mapping gives the row that names it. -/
def decode : List Byte → Except DecodeError (Instr × List Byte)
  | [] => .error .noByte
  | [op] => .ok (unprefixedRow op, [])
  | op :: op2 :: rest => if op = 0xCB then .ok (prefixedRow op2, rest) else .ok (unprefixedRow op, op2 :: rest)

/-- Byte `k` of a word numbered as the opcode table numbers it: bit 0 is the least significant bit of the first
byte, and the first byte stands at the lowest address. -/
def tableByte (w k : Nat) : Byte := BitVec.ofNat 8 (w / 256 ^ k)

/-- The bytes of a table word of `nbits` bits. -/
def tableBytes (nbits w : Nat) : List Byte := (List.range ((nbits + 7) / 8)).map (tableByte w)

/-- The instruction the decoder reads from the bits `w` (see log entry 16 for the rows of the prefixed table, whose
`encoding` in the opcode table holds the second byte only). -/
def decodeTableWord (nbits w : Nat) : Option Instr :=
  match decode (tableBytes nbits w) with
  | .ok (i, _) => some i
  | .error _ => none

/-! ### Lengths (R80, R81) -/

/-- The row belongs to the prefixed table (R97). -/
def Instr.isPrefixed : Instr → Bool
  | .rlcR _ | .rlcHl | .rrcR _ | .rrcHl | .rlR _ | .rlHl | .rrR _ | .rrHl
  | .slaR _ | .slaHl | .sraR _ | .sraHl | .swapR _ | .swapHl | .srlR _ | .srlHl
  | .bitR _ _ | .bitHl _ | .resR _ _ | .resHl _ | .setR _ _ | .setHl _ => true
  | _ => false

/-- The number of immediate bytes after the opcode byte, by the row's format (R83): IMM8 and REL8 one, IMM16 two. -/
def Instr.immBytes : Instr → Nat
  | .ldRN _ | .ldHlN | .ldhAN | .ldhNA
  | .addAN | .adcAN | .subN | .sbcAN | .andN | .xorN | .orN | .cpN
  | .stop | .jrE | .jrCcE _ | .addSpE | .ldHlSpE => 1
  | .ldRpNn _ | .ldNnSp | .ldANn | .ldNnA
  | .jpNn | .jpCcNn _ | .callNn | .callCcNn _ => 2
  | _ => 0

/-- The instruction's length in bytes (R80, R81): its opcode bytes and its immediate bytes. -/
def Instr.length (i : Instr) : Nat :=
  (if i.isPrefixed then 2 else 1) + i.immBytes

/-! ### The encoder, from the encodings of the instruction rules -/

/-- One opcode byte from a base pattern and fields already shifted into place. -/
def opByte (pattern fields : Nat) : Byte := BitVec.ofNat 8 (pattern + fields)

/-- A prefixed instruction: 0xCB, then its opcode byte. -/
def cbBytes (pattern fields : Nat) : List Byte := [0xCB, opByte pattern fields]

/-- The opcode bytes of an instruction, each from the `Encoding:` line of its rule. The immediate bytes are the
execution unit's and follow these. -/
def encode : Instr → List Byte
  | .nop => [0x00]
  | .stop => [0x10]
  | .halt => [0x76]
  | .di => [0xF3]
  | .ei => [0xFB]
  | .reti => [0xD9]
  | .prefixCb => [0xCB]
  | .ldRR rd rs => [opByte 0x40 (8 * rd.code + rs.code)]
  | .ldRN rd => [opByte 0x06 (8 * rd.code)]
  | .ldRHl rd => [opByte 0x46 (8 * rd.code)]
  | .ldHlR rs => [opByte 0x70 rs.code]
  | .ldHlN => [0x36]
  | .ldABc => [0x0A]
  | .ldADe => [0x1A]
  | .ldBcA => [0x02]
  | .ldDeA => [0x12]
  | .ldAHli => [0x2A]
  | .ldAHld => [0x3A]
  | .ldHliA => [0x22]
  | .ldHldA => [0x32]
  | .ldANn => [0xFA]
  | .ldNnA => [0xEA]
  | .ldhAN => [0xF0]
  | .ldhNA => [0xE0]
  | .ldhAC => [0xF2]
  | .ldhCA => [0xE2]
  | .ldRpNn p => [opByte 0x01 (16 * p.code)]
  | .ldSpHl => [0xF9]
  | .ldHlSpE => [0xF8]
  | .ldNnSp => [0x08]
  | .addAR rs => [opByte 0x80 rs.code]
  | .addAHl => [0x86]
  | .addAN => [0xC6]
  | .adcAR rs => [opByte 0x88 rs.code]
  | .adcAHl => [0x8E]
  | .adcAN => [0xCE]
  | .subR rs => [opByte 0x90 rs.code]
  | .subHl => [0x96]
  | .subN => [0xD6]
  | .sbcAR rs => [opByte 0x98 rs.code]
  | .sbcAHl => [0x9E]
  | .sbcAN => [0xDE]
  | .andR rs => [opByte 0xA0 rs.code]
  | .andHl => [0xA6]
  | .andN => [0xE6]
  | .xorR rs => [opByte 0xA8 rs.code]
  | .xorHl => [0xAE]
  | .xorN => [0xEE]
  | .orR rs => [opByte 0xB0 rs.code]
  | .orHl => [0xB6]
  | .orN => [0xF6]
  | .cpR rs => [opByte 0xB8 rs.code]
  | .cpHl => [0xBE]
  | .cpN => [0xFE]
  | .incR rd => [opByte 0x04 (8 * rd.code)]
  | .incHl => [0x34]
  | .decR rd => [opByte 0x05 (8 * rd.code)]
  | .decHl => [0x35]
  | .incRp p => [opByte 0x03 (16 * p.code)]
  | .decRp p => [opByte 0x0B (16 * p.code)]
  | .addHlRp p => [opByte 0x09 (16 * p.code)]
  | .addSpE => [0xE8]
  | .daa => [0x27]
  | .cpl => [0x2F]
  | .scf => [0x37]
  | .ccf => [0x3F]
  | .rlca => [0x07]
  | .rrca => [0x0F]
  | .rla => [0x17]
  | .rra => [0x1F]
  | .jpNn => [0xC3]
  | .jpCcNn cc => [opByte 0xC2 (8 * cc.code)]
  | .jpHl => [0xE9]
  | .jrE => [0x18]
  | .jrCcE cc => [opByte 0x20 (8 * cc.code)]
  | .callNn => [0xCD]
  | .callCcNn cc => [opByte 0xC4 (8 * cc.code)]
  | .ret => [0xC9]
  | .retCc cc => [opByte 0xC0 (8 * cc.code)]
  | .rst t => [opByte 0xC7 (8 * t.val)]
  | .pushRr q => [opByte 0xC5 (16 * q.code)]
  | .pushAf => [0xF5]
  | .popRr q => [opByte 0xC1 (16 * q.code)]
  | .popAf => [0xF1]
  | .illegalD3 => [0xD3]
  | .illegalDB => [0xDB]
  | .illegalDD => [0xDD]
  | .illegalE3 => [0xE3]
  | .illegalE4 => [0xE4]
  | .illegalEB => [0xEB]
  | .illegalEC => [0xEC]
  | .illegalED => [0xED]
  | .illegalF4 => [0xF4]
  | .illegalFC => [0xFC]
  | .illegalFD => [0xFD]
  | .rlcR rs => cbBytes 0x00 rs.code
  | .rlcHl => [0xCB, 0x06]
  | .rrcR rs => cbBytes 0x08 rs.code
  | .rrcHl => [0xCB, 0x0E]
  | .rlR rs => cbBytes 0x10 rs.code
  | .rlHl => [0xCB, 0x16]
  | .rrR rs => cbBytes 0x18 rs.code
  | .rrHl => [0xCB, 0x1E]
  | .slaR rs => cbBytes 0x20 rs.code
  | .slaHl => [0xCB, 0x26]
  | .sraR rs => cbBytes 0x28 rs.code
  | .sraHl => [0xCB, 0x2E]
  | .swapR rs => cbBytes 0x30 rs.code
  | .swapHl => [0xCB, 0x36]
  | .srlR rs => cbBytes 0x38 rs.code
  | .srlHl => [0xCB, 0x3E]
  | .bitR i rs => cbBytes 0x40 (8 * i.val + rs.code)
  | .bitHl i => cbBytes 0x46 (8 * i.val)
  | .resR i rs => cbBytes 0x80 (8 * i.val + rs.code)
  | .resHl i => cbBytes 0x86 (8 * i.val)
  | .setR i rs => cbBytes 0xC0 (8 * i.val + rs.code)
  | .setHl i => cbBytes 0xC6 (8 * i.val)

end Sys2Proof
end

