-- ==== Sys2Proof/Machine/Prefixed.lean ====
section
/-! DEFINITION. The prefix byte 0xCB: fetch the second byte and run its row of the prefixed table within the same step
(spec/44_orchestrator.md R290, R293). -/

namespace Sys2Proof.Machine

/-- The rule of a row of the prefixed table, `op2` its opcode byte. A row of the other table is no mapping of the
prefixed one; R290's branch for it raises `DecodeFailure` with `prefixed = true`. The prefixed table maps every byte
(R97), so no byte reaches that branch (`Laws/Prefixed.lean` proves it). -/
def runPrefixedRow (i : Instr) (op2 : Byte) (s : State) : Result :=
  match i with
  | .rlcR r => execRlcR r s
  | .rlcHl => execRlcHl s
  | .rrcR r => execRrcR r s
  | .rrcHl => execRrcHl s
  | .rlR r => execRlR r s
  | .rlHl => execRlHl s
  | .rrR r => execRrR r s
  | .rrHl => execRrHl s
  | .slaR r => execSlaR r s
  | .slaHl => execSlaHl s
  | .sraR r => execSraR r s
  | .sraHl => execSraHl s
  | .swapR r => execSwapR r s
  | .swapHl => execSwapHl s
  | .srlR r => execSrlR r s
  | .srlHl => execSrlHl s
  | .bitR n r => execBitR n r s
  | .bitHl n => execBitHl n s
  | .resR n r => execResR n r s
  | .resHl n => execResHl n s
  | .setR n r => execSetR n r s
  | .setHl n => execSetHl n s
  | _ => s.raise .decodeFailure op2 true

/-- The prefix byte (R293): it has no effect and no cycle cost of its own. -/
def execPrefixCb (s : State) : Result :=
  let op2 := s.memRead (s.pc + 1)
  runPrefixedRow (prefixedRow op2.1) op2.1 op2.2

end Sys2Proof.Machine
end

