-- ==== Sys2Proof/Machine/System.lean ====
section
/-! DEFINITION. The hook instructions, `STOP`, and the bytes with no mapping (spec/44_orchestrator.md R295 to R300,
spec/60_exceptions.md R321). -/

namespace Sys2Proof.Machine

/-- `NOP` (R295). -/
def execNop (s : State) : Result := s.hooked .nop (s.figure .nop true 4)
/-- `HALT` (R296): the block does not stop and keeps no halted bit. -/
def execHalt (s : State) : Result := s.hooked .halt (s.figure .halt true 4)
/-- `DI` (R297). -/
def execDi (s : State) : Result := s.hooked .di (s.figure .di true 4)
/-- `EI` (R298). -/
def execEi (s : State) : Result := s.hooked .ei (s.figure .ei true 4)
/-- `RETI` (R299): a stub that does not pop and does not transfer control. -/
def execReti (s : State) : Result := s.hooked .reti (s.figure .reti true 16)

/-- `STOP` (R300): it decodes, and executing it raises the fatal condition; the second byte is not read. -/
def execStop (s : State) : Result := s.raise .unimplementedOperand 0x10 false

/-- A byte of `ILLEGAL` (R96, R321): the orchestrator raises `DecodeFailure` after the opcode fetch and before any
other transaction. -/
def noMappingAt (opcode : Byte) (s : State) : Result := s.raise .decodeFailure opcode false

/-- Byte 0xD3 (R96). -/
def execIllegalD3 (s : State) : Result := noMappingAt 0xD3 s
/-- Byte 0xDB (R96). -/
def execIllegalDB (s : State) : Result := noMappingAt 0xDB s
/-- Byte 0xDD (R96). -/
def execIllegalDD (s : State) : Result := noMappingAt 0xDD s
/-- Byte 0xE3 (R96). -/
def execIllegalE3 (s : State) : Result := noMappingAt 0xE3 s
/-- Byte 0xE4 (R96). -/
def execIllegalE4 (s : State) : Result := noMappingAt 0xE4 s
/-- Byte 0xEB (R96). -/
def execIllegalEB (s : State) : Result := noMappingAt 0xEB s
/-- Byte 0xEC (R96). -/
def execIllegalEC (s : State) : Result := noMappingAt 0xEC s
/-- Byte 0xED (R96). -/
def execIllegalED (s : State) : Result := noMappingAt 0xED s
/-- Byte 0xF4 (R96). -/
def execIllegalF4 (s : State) : Result := noMappingAt 0xF4 s
/-- Byte 0xFC (R96). -/
def execIllegalFC (s : State) : Result := noMappingAt 0xFC s
/-- Byte 0xFD (R96). -/
def execIllegalFD (s : State) : Result := noMappingAt 0xFD s

end Sys2Proof.Machine
end

