-- ==== Sys2Proof/Machine/Dispatch.lean ====
section
/-! DEFINITION. Dispatch is total: every decoded instruction has a rule (spec/44_orchestrator.md R294). -/

namespace Sys2Proof.Machine

def exec (i : Instr) (s : State) : Host.Outcome State Fault Refusal :=
  match i with
  | .nop => Sys2Proof.Machine.execNop s
  | .stop => Sys2Proof.Machine.execStop s
  | .halt => Sys2Proof.Machine.execHalt s
  | .di => Sys2Proof.Machine.execDi s
  | .ei => Sys2Proof.Machine.execEi s
  | .reti => Sys2Proof.Machine.execReti s
  | .prefixCb => Sys2Proof.Machine.execPrefixCb s
  | .ldRR rd rs => Sys2Proof.Machine.execLdRR rd rs s
  | .ldRN rd => Sys2Proof.Machine.execLdRN rd s
  | .ldRHl rd => Sys2Proof.Machine.execLdRHl rd s
  | .ldHlR r => Sys2Proof.Machine.execLdHlR r s
  | .ldHlN => Sys2Proof.Machine.execLdHlN s
  | .ldABc => Sys2Proof.Machine.execLdABc s
  | .ldADe => Sys2Proof.Machine.execLdADe s
  | .ldBcA => Sys2Proof.Machine.execLdBcA s
  | .ldDeA => Sys2Proof.Machine.execLdDeA s
  | .ldAHli => Sys2Proof.Machine.execLdAHli s
  | .ldAHld => Sys2Proof.Machine.execLdAHld s
  | .ldHliA => Sys2Proof.Machine.execLdHliA s
  | .ldHldA => Sys2Proof.Machine.execLdHldA s
  | .ldANn => Sys2Proof.Machine.execLdANn s
  | .ldNnA => Sys2Proof.Machine.execLdNnA s
  | .ldhAN => Sys2Proof.Machine.execLdhAN s
  | .ldhNA => Sys2Proof.Machine.execLdhNA s
  | .ldhAC => Sys2Proof.Machine.execLdhAC s
  | .ldhCA => Sys2Proof.Machine.execLdhCA s
  | .ldRpNn p => Sys2Proof.Machine.execLdRpNn p s
  | .ldSpHl => Sys2Proof.Machine.execLdSpHl s
  | .ldHlSpE => Sys2Proof.Machine.execLdHlSpE s
  | .ldNnSp => Sys2Proof.Machine.execLdNnSp s
  | .addAR r => Sys2Proof.Machine.execAddAR r s
  | .addAHl => Sys2Proof.Machine.execAddAHl s
  | .addAN => Sys2Proof.Machine.execAddAN s
  | .adcAR r => Sys2Proof.Machine.execAdcAR r s
  | .adcAHl => Sys2Proof.Machine.execAdcAHl s
  | .adcAN => Sys2Proof.Machine.execAdcAN s
  | .subR r => Sys2Proof.Machine.execSubR r s
  | .subHl => Sys2Proof.Machine.execSubHl s
  | .subN => Sys2Proof.Machine.execSubN s
  | .sbcAR r => Sys2Proof.Machine.execSbcAR r s
  | .sbcAHl => Sys2Proof.Machine.execSbcAHl s
  | .sbcAN => Sys2Proof.Machine.execSbcAN s
  | .andR r => Sys2Proof.Machine.execAndR r s
  | .andHl => Sys2Proof.Machine.execAndHl s
  | .andN => Sys2Proof.Machine.execAndN s
  | .xorR r => Sys2Proof.Machine.execXorR r s
  | .xorHl => Sys2Proof.Machine.execXorHl s
  | .xorN => Sys2Proof.Machine.execXorN s
  | .orR r => Sys2Proof.Machine.execOrR r s
  | .orHl => Sys2Proof.Machine.execOrHl s
  | .orN => Sys2Proof.Machine.execOrN s
  | .cpR r => Sys2Proof.Machine.execCpR r s
  | .cpHl => Sys2Proof.Machine.execCpHl s
  | .cpN => Sys2Proof.Machine.execCpN s
  | .incR rd => Sys2Proof.Machine.execIncR rd s
  | .incHl => Sys2Proof.Machine.execIncHl s
  | .decR rd => Sys2Proof.Machine.execDecR rd s
  | .decHl => Sys2Proof.Machine.execDecHl s
  | .incRp p => Sys2Proof.Machine.execIncRp p s
  | .decRp p => Sys2Proof.Machine.execDecRp p s
  | .addHlRp p => Sys2Proof.Machine.execAddHlRp p s
  | .addSpE => Sys2Proof.Machine.execAddSpE s
  | .daa => Sys2Proof.Machine.execDaa s
  | .cpl => Sys2Proof.Machine.execCpl s
  | .scf => Sys2Proof.Machine.execScf s
  | .ccf => Sys2Proof.Machine.execCcf s
  | .rlca => Sys2Proof.Machine.execRlca s
  | .rrca => Sys2Proof.Machine.execRrca s
  | .rla => Sys2Proof.Machine.execRla s
  | .rra => Sys2Proof.Machine.execRra s
  | .jpNn => Sys2Proof.Machine.execJpNn s
  | .jpCcNn cc => Sys2Proof.Machine.execJpCcNn cc s
  | .jpHl => Sys2Proof.Machine.execJpHl s
  | .jrE => Sys2Proof.Machine.execJrE s
  | .jrCcE cc => Sys2Proof.Machine.execJrCcE cc s
  | .callNn => Sys2Proof.Machine.execCallNn s
  | .callCcNn cc => Sys2Proof.Machine.execCallCcNn cc s
  | .ret => Sys2Proof.Machine.execRet s
  | .retCc cc => Sys2Proof.Machine.execRetCc cc s
  | .rst t => Sys2Proof.Machine.execRst t s
  | .pushRr q => Sys2Proof.Machine.execPushRr q s
  | .pushAf => Sys2Proof.Machine.execPushAf s
  | .popRr q => Sys2Proof.Machine.execPopRr q s
  | .popAf => Sys2Proof.Machine.execPopAf s
  | .illegalD3 => Sys2Proof.Machine.execIllegalD3 s
  | .illegalDB => Sys2Proof.Machine.execIllegalDB s
  | .illegalDD => Sys2Proof.Machine.execIllegalDD s
  | .illegalE3 => Sys2Proof.Machine.execIllegalE3 s
  | .illegalE4 => Sys2Proof.Machine.execIllegalE4 s
  | .illegalEB => Sys2Proof.Machine.execIllegalEB s
  | .illegalEC => Sys2Proof.Machine.execIllegalEC s
  | .illegalED => Sys2Proof.Machine.execIllegalED s
  | .illegalF4 => Sys2Proof.Machine.execIllegalF4 s
  | .illegalFC => Sys2Proof.Machine.execIllegalFC s
  | .illegalFD => Sys2Proof.Machine.execIllegalFD s
  | .rlcR r => Sys2Proof.Machine.execRlcR r s
  | .rlcHl => Sys2Proof.Machine.execRlcHl s
  | .rrcR r => Sys2Proof.Machine.execRrcR r s
  | .rrcHl => Sys2Proof.Machine.execRrcHl s
  | .rlR r => Sys2Proof.Machine.execRlR r s
  | .rlHl => Sys2Proof.Machine.execRlHl s
  | .rrR r => Sys2Proof.Machine.execRrR r s
  | .rrHl => Sys2Proof.Machine.execRrHl s
  | .slaR r => Sys2Proof.Machine.execSlaR r s
  | .slaHl => Sys2Proof.Machine.execSlaHl s
  | .sraR r => Sys2Proof.Machine.execSraR r s
  | .sraHl => Sys2Proof.Machine.execSraHl s
  | .swapR r => Sys2Proof.Machine.execSwapR r s
  | .swapHl => Sys2Proof.Machine.execSwapHl s
  | .srlR r => Sys2Proof.Machine.execSrlR r s
  | .srlHl => Sys2Proof.Machine.execSrlHl s
  | .bitR n r => Sys2Proof.Machine.execBitR n r s
  | .bitHl n => Sys2Proof.Machine.execBitHl n s
  | .resR n r => Sys2Proof.Machine.execResR n r s
  | .resHl n => Sys2Proof.Machine.execResHl n s
  | .setR n r => Sys2Proof.Machine.execSetR n r s
  | .setHl n => Sys2Proof.Machine.execSetHl n s

end Sys2Proof.Machine
end

