-- ==== Sys2Proof/Machine/Fetch.lean ====
section
/-! DEFINITION. The orchestrator (spec/44_orchestrator.md R290): fetching the opcode byte, decoding it and running
its row, the step, and laying an instruction's bytes out where the next step fetches them. -/

namespace Sys2Proof.Machine

/-- The opcode fetch (R60 (1), R290): the record of transactions starts anew and the byte at `pc` is read. -/
def fetchOpcode (s : State) : Byte × State := { s with bus := [] }.memRead s.pc

/-- What the orchestrator does with a fetched opcode byte (R290): the decoder gives its row, which runs, or "no
mapping", which the orchestrator turns into `DecodeFailure` before any other transaction (R99, R321). The row of the
prefix byte fetches the second byte itself. -/
def runOpcode (op : Byte) (s : State) : Result :=
  match decodeByte s.params.illegal op false with
  | some i => exec i s
  | none => s.raise .decodeFailure op false

/-- The step (R290). A block whose fault latch is not empty changes nothing and reports the same record (R34). -/
def runStep (s : State) : Result :=
  match s.latch with
  | some r => .fault (.stopped r)
  | none => runOpcode (fetchOpcode s).1 (fetchOpcode s).2

/-- The three bytes of a word where the next step reads them: stored at `pc`, the first at the lowest address, under
the closed reading of memory; the environment's next three answers under the open one (R63). -/
def placeBytes (s : State) (w : Nat) : State :=
  match s.params.memory with
  | .closed => ((s.poke s.pc (tableByte w 0)).poke (s.pc + 1) (tableByte w 1)).poke (s.pc + 2) (tableByte w 2)
  | .opened answers =>
    let placed := [(s.reads, tableByte w 0), (s.reads + 1, tableByte w 1), (s.reads + 2, tableByte w 2)]
    { s with params := { s.params with memory := .opened (placed ++ answers) } }

/-- A word placed for the next step, with an empty fault latch, without which no step fetches. This stands for the
host's load of a program (log entry 15). -/
def placeWord (s : State) (w : Nat) : State := { placeBytes s w with latch := none }

end Sys2Proof.Machine
end

