-- ==== Sys2Proof/Machine/Step.lean ====
section
/-! DEFINITION. The names the host's interface uses: one step, and placing an instruction where the next step fetches
it. -/

namespace Sys2Proof.Machine

/-- `step()` (spec/44_orchestrator.md R290; spec/10_state.md R38). -/
def step (s : State) : Host.Outcome State Fault Refusal := runStep s

/-- The state with the instruction whose bits are `w` placed where the next step reads it: three bytes, the longest
instruction, the bits above `nbits` zero (log entry 15). -/
def State.withFetchWord (s : State) (nbits w : Nat) : State := placeWord s (w % 2 ^ nbits)

end Sys2Proof.Machine
end

