-- ==== Sys2Proof/Machine/Cycles.lean ====
section
/-! DEFINITION. The table of spec/70_reset_and_hazards.md R372, written from the table and not from the
instruction rules, whose own figures the meanings output. No transition reads it (R373). -/

namespace Sys2Proof.Machine

/-- Whether a conditional transfer is taken in a state; an unconditional form counts as taken (R14, R372). -/
def taken (i : Instr) (s : State) : Bool :=
  match i with
  | .jpCcNn cc | .jrCcE cc | .callCcNn cc | .retCc cc => condHolds cc s.f
  | _ => true

/-- The table of R372, the value the spec takes for `CYCLES` (log entry 10). `none` where the table has no figure: `STOP`, the prefix byte (whose
figure is its instruction's, R293) and the bytes with no mapping. -/
def cyclesTable (i : Instr) (tk : Bool) : Option Nat :=
  match i with
  | .ldRR _ _ => some 4
  | .ldRHl _ | .ldHlR _ | .ldABc | .ldADe | .ldBcA | .ldDeA | .ldAHli | .ldAHld | .ldHliA | .ldHldA => some 8
  | .ldRN _ => some 8
  | .ldHlN => some 12
  | .ldhAC | .ldhCA => some 8
  | .ldhAN | .ldhNA => some 12
  | .ldANn | .ldNnA => some 16
  | .ldRpNn _ => some 12
  | .ldNnSp => some 20
  | .ldSpHl => some 8
  | .ldHlSpE => some 12
  | .addAR _ | .adcAR _ | .subR _ | .sbcAR _ | .andR _ | .xorR _ | .orR _ | .cpR _ => some 4
  | .addAHl | .adcAHl | .subHl | .sbcAHl | .andHl | .xorHl | .orHl | .cpHl => some 8
  | .addAN | .adcAN | .subN | .sbcAN | .andN | .xorN | .orN | .cpN => some 8
  | .incR _ | .decR _ => some 4
  | .incHl | .decHl => some 12
  | .incRp _ | .decRp _ => some 8
  | .addHlRp _ => some 8
  | .addSpE => some 16
  | .daa | .cpl | .scf | .ccf => some 4
  | .rlca | .rrca | .rla | .rra => some 4
  | .rlcR _ | .rrcR _ | .rlR _ | .rrR _ | .slaR _ | .sraR _ | .swapR _ | .srlR _ => some 8
  | .bitR _ _ | .resR _ _ | .setR _ _ => some 8
  | .rlcHl | .rrcHl | .rlHl | .rrHl | .slaHl | .sraHl | .swapHl | .srlHl => some 16
  | .bitHl _ | .resHl _ | .setHl _ => some 16
  | .jpNn => some 16
  | .jpCcNn _ => some (if tk then 16 else 12)
  | .jpHl => some 4
  | .jrE => some 16
  | .jrCcE _ => some (if tk then 16 else 12)
  | .callNn => some 24
  | .callCcNn _ => some (if tk then 24 else 12)
  | .ret => some 16
  | .retCc _ => some (if tk then 20 else 8)
  | .rst _ => some 16
  | .pushRr _ | .pushAf => some 16
  | .popRr _ | .popAf => some 12
  | .nop | .halt | .di | .ei => some 4
  | .reti => some 16
  | .stop | .prefixCb => none
  | .illegalD3 | .illegalDB | .illegalDD | .illegalE3 | .illegalE4 | .illegalEB | .illegalEC | .illegalED => none
  | .illegalF4 | .illegalFC | .illegalFD => none

end Sys2Proof.Machine
end

