-- ==== Sys2Proof/Safety.lean ====
section
/-! DEFINITION. What counts as a safe run, the invariant every step keeps, and the frame predicates, in the terms the
statements use. -/

namespace Sys2Proof.Machine

/-! ### Running and stopped -/

/-- The block runs: its fault latch is empty (spec/10_state.md R34). A run is safe as long as this holds. -/
def State.Running (s : State) : Prop := s.latch = none

/-- `UnimplementedOperand` is what opcode byte `op` raises under `u` (spec/60_exceptions.md R324). -/
def unimplementedUnder (u : Unwired) (op : Byte) : Prop :=
  op = 0x10 ∨
  (u.alu8HlInd = true ∧ op ∈ ([0x86, 0x8E, 0x96, 0x9E, 0xA6, 0xAE, 0xB6, 0xBE] : List Byte)) ∨
  (u.alu8Imm = true ∧ op ∈ ([0xC6, 0xCE, 0xD6, 0xDE, 0xE6, 0xEE, 0xF6, 0xFE] : List Byte)) ∨
  (u.incDec8HlInd = true ∧ op ∈ ([0x34, 0x35] : List Byte))

/-- Opcode byte `op` has no mapping when `ILLEGAL` is `illegal` (R96): it is in the set, or it is one of the eleven bytes
for which no row exists. The prefix byte is not looked up. -/
def unmappedUnder (illegal : List Byte) (op : Byte) : Prop := op ≠ 0xCB ∧ (op ∈ illegal ∨ op ∈ Config.illegal)

/-- A fault record a step can have written: it names an unprefixed opcode byte for which the spec has that fatal
condition (R321, R324). -/
def justified (p : Params) (r : FaultRecord) : Prop :=
  r.prefixed = false ∧
  match r.kind with
  | .decodeFailure => unmappedUnder p.illegal r.opcode
  | .unimplementedOperand => unimplementedUnder p.unwired r.opcode

/-- The invariant of the block. Memory is canonical (R50); the latch and the `fault` output agree; a latched record is
justified and names the byte that the step's one read, at the `pc` the block still has, was answered with (R291,
R322, R323); under the closed reading that byte is in memory (R63 (a)). -/
structure State.Inv (s : State) : Prop where
  memory : Memory.wf s.mem = true
  output : ∀ r, s.latch = some r ↔ s.report = .fatal r
  record : ∀ r, s.latch = some r → justified s.params r ∧ r.pc = s.pc ∧ s.bus = [.read s.pc r.opcode] ∧
    (s.params.memory = .closed → r.opcode = s.byteAt s.pc)

/-! ### Writing a next state down -/

/-- The outputs and the `pc` of a completed step with no hook, everything else as in `t` (R39, R40, R291). -/
def State.ended (t : State) (pc : Word) (cycles : Nat) : State :=
  { t with pc := pc, report := .completed cycles .none }

/-- How many of the transactions are reads. -/
def busReads : List Txn → Nat
  | [] => 0
  | .read _ _ :: l => busReads l + 1
  | .write _ _ :: l => busReads l

/-- The transactions `l` happened, oldest first, and nothing else (R42). -/
def State.saw (t : State) (l : List Txn) : State := { t with bus := t.bus ++ l, reads := t.reads + busReads l }

/-- The transactions `l` are the first of a step, and nothing else has happened (R42, R60 (1)). -/
def State.fetched (t : State) (l : List Txn) : State := { t with bus := l, reads := t.reads + busReads l }

/-- The record `r` is latched and output, and nothing else changes (R323, R328). -/
def State.failed (t : State) (r : FaultRecord) : State := { t with latch := some r, report := .fatal r }

/-! ### Frames -/

/-- Every general register outside `written` keeps its value. -/
def regsKept (written : List Reg8) (s t : State) : Prop := ∀ r, r ∉ written → t.reg r = s.reg r

/-- Every memory byte outside `stored` reads as before. -/
def memKept (stored : List Word) (s t : State) : Prop := ∀ a, a ∉ stored → t.byteAt a = s.byteAt a

/-- The fault latch and the parameters keep their values. -/
def controlKept (s t : State) : Prop := t.latch = s.latch ∧ t.params = s.params

/-- The general registers a pair selector names (R24). -/
def rpRegs : Rp → List Reg8
  | .bc => [.b, .c] | .de => [.d, .e] | .hl => [.h, .l] | .sp => []

/-- The general registers a stack-pair selector names (R25); the other half of AF is the flags register. -/
def rp2Regs : Rp2 → List Reg8
  | .bc => [.b, .c] | .de => [.d, .e] | .hl => [.h, .l] | .af => [.a]

/-! ### Transactions -/

/-- A read transaction. -/
def Txn.isRead : Txn → Bool
  | .read _ _ => true
  | .write _ _ => false

/-- What a list of transactions does to memory, in order (spec/20_memory.md R65). -/
def replay : List Txn → Memory → Memory
  | [], m => m
  | .read _ _ :: l, m => replay l m
  | .write a v :: l, m => replay l (Memory.write m a.toNat v)

end Sys2Proof.Machine
end

