-- ==== Sys2Proof/Certificates/Slice0/Obligations.lean ====
section
/-! DEFINITION. The statements for the provers. `s.saw l` is `s` with the transactions `l` recorded, `t.ended pc n` is
`t` with that `pc` and a completed step of `n` cycles, `s.failed r` is `s` with the record `r` latched and output
(Safety.lean): an equation whose right side is built from these and named fields says that every other part of the
state is unchanged. `s.answer k a` is what a read of `a` is answered with when `k` reads of the instruction come before
it (R63; Machine/Ops.lean): the byte memory holds under the closed reading, the environment's answer under the open one,
so that each statement covers both readings (log entry 5). `s.fetched l` is `s` at the start of a step, with the
transactions `l` made. `s.figure i taken n` is `CYCLES(i, taken)` (R8, R372; Machine/Ops.lean): `n`, the figure the
instruction's rule gives, unless the parameter `CYCLES` of the state replaces it; the figures have log entry 10. -/

open Sys2Proof Sys2Proof.Machine

/-! ### Encoding and decoding -/

/-- Decoding the opcode bytes of an instruction gives it back, whatever bytes follow; so it does for the named rows of
the bytes with no mapping. (R95 to R99.) Opcode values: D22, log entry 8. -/
def Obligations.DecodeOfEncodeIsIdentity : Prop :=
  ∀ (i : Instr) (rest : List Byte), i.wellFormed = true ∨ i.noMapping = true →
    decode (encode i ++ rest) = .ok (i, rest)

/-- Each byte value is the code of exactly one row of each table. (R99, R101.) Opcode values: D22, log entry 8. -/
def Obligations.EveryByteIsTheCodeOfOneRow : Prop :=
  ∀ (op : Byte) (i : Instr), i.fieldsAllowed = true →
    (encode i = [op] ↔ i = unprefixedRow op) ∧ (encode i = [0xCB, op] ↔ i = prefixedRow op)

/-- A few words written out from the encodings of the spec, with their rows. (R95, R97.) Opcode values: D22, log entry
8. -/
def Obligations.PublishedWordsDecode : Prop :=
  decodeTableWord 8 0b01111000 = some (.ldRR .a .b) ∧
  decodeTableWord 24 0xC0FFEA = some .ldNnA ∧
  decodeTableWord 8 0b10011100 = some (.sbcAR .h) ∧
  decodeTableWord 8 0b00111001 = some (.addHlRp .sp) ∧
  decodeTableWord 8 0b00010111 = some .rla ∧
  decodeTableWord 16 0b00010111_11001011 = some (.rlR .a) ∧
  decodeTableWord 16 0b01_101_110_11001011 = some (.bitHl 5) ∧
  decodeTableWord 16 0xFE_30 = some (.jrCcE .nc) ∧
  decodeTableWord 24 0x1234_DC = some (.callCcNn .c) ∧
  decodeTableWord 8 0b11_101_111 = some (.rst 5) ∧
  decodeTableWord 8 0b11_11_0001 = some .popAf ∧
  decodeTableWord 8 0b01110110 = some .halt

/-- R96 and R98: whatever the parameter `ILLEGAL` holds, the unprefixed decoder has no mapping for exactly its bytes and
the eleven that no row maps, the prefix byte excepted; the prefixed decoder maps every byte. The eleven are D11, log
entry 11. -/
def Obligations.NoMappingExactlyForIllegal : Prop :=
  ∀ (illegal : List Byte) (op : Byte),
    (decodeByte illegal op false = none ↔ op ≠ 0xCB ∧ (op ∈ illegal ∨ op ∈ Config.illegal)) ∧
    (decodeByte illegal op false ≠ none → decodeByte illegal op false = some (unprefixedRow op)) ∧
    decodeByte illegal op true = some (prefixedRow op)

/-! ### The step -/

/-- When the decoder maps the byte the read at `pc` answers (the parameter `ILLEGAL` does not take it out) and the bytes
read there decode to a well-formed instruction, a step of a running block is `exec` of it, on the state in which the
opcode bytes have been fetched and nothing else happened. (R290.) The path of R290 on which decoding succeeds; the bus record is the
model's field (log entry 6). -/
def Obligations.StepRunsTheDecodedInstruction : Prop :=
  ∀ (s : State) (i : Instr) (rest : List Byte), s.Running → decodeByte s.params.illegal (s.answer 0 s.pc) false ≠ none →
    decode [s.answer 0 s.pc, s.answer 1 (s.pc + 1)] = .ok (i, rest) → i.wellFormed = true →
    step s = exec i (s.fetched
      (if i.isPrefixed then [.read s.pc 0xCB, .read (s.pc + 1) (s.answer 1 (s.pc + 1))]
        else [.read s.pc (s.answer 0 s.pc)]))

/-- R293: the prefix byte reads the byte after it, runs that byte's row of the prefixed table in the same step, and no
byte makes it fail. It leaves out what R293 says of a fault record, which no prefixed byte can cause. -/
def Obligations.PrefixRunsTheSecondByte : Prop :=
  ∀ s : State,
    exec .prefixCb s =
      exec (prefixedRow (s.answer 0 (s.pc + 1))) (s.saw [.read (s.pc + 1) (s.answer 0 (s.pc + 1))]) ∧
    ∃ t n, exec .prefixCb s = .next t ∧ t.pc = s.pc + 2 ∧ t.report = .completed n .none ∧
      (n = s.figure (prefixedRow (s.answer 0 (s.pc + 1))) true 8 ∨
        n = s.figure (prefixedRow (s.answer 0 (s.pc + 1))) true 16) ∧
      t.latch = s.latch

/-- R34, with the model's own outcome for a step of a stopped block (log entry 7): a block with a latched record
reports that record at every step and has no next state; reset empties the latch. The sticky latch is D12; the outcome
is the model's choice (log entry 7). -/
def Obligations.StoppedBlockReportsItsRecord : Prop :=
  ∀ (s : State) (r : FaultRecord), s.latch = some r →
    step s = .fault (.stopped r) ∧ ∀ regs : ResetRegs, (s.assertReset regs).Running

/-- Every instruction in every state answers a next state: it completes with the latch as it was, or it ends in a
fatal condition that is latched. No other end exists. (R320, R325.) That a fatal condition is a next state is the
model's choice (log entry 7). -/
def Obligations.EveryInstructionCompletesOrFails : Prop :=
  ∀ (i : Instr) (s : State), ∃ t, exec i s = .next t ∧ t.params = s.params ∧
    ((∃ n k, t.report = .completed n k ∧ t.latch = s.latch) ∨ ∃ r, t = (s.saw (t.bus.drop s.bus.length)).failed r)

/-- R321: a running block at a byte with no mapping, one of the parameter `ILLEGAL` or of the eleven that no row maps,
ends the step in `DecodeFailure` with nothing changed and only the opcode byte read; and no other byte does so. The
eleven are D11, log entry 11; that the next state latches the record is D12, log entry 7. -/
def Obligations.UnmappedByteIsDecodeFailure : Prop :=
  ∀ s : State, s.Running →
    (s.answer 0 s.pc ≠ 0xCB → s.answer 0 s.pc ∈ s.params.illegal ∨ s.answer 0 s.pc ∈ Config.illegal →
      step s = .next ((s.fetched [.read s.pc (s.answer 0 s.pc)]).failed
        ⟨.decodeFailure, s.answer 0 s.pc, false, s.pc⟩)) ∧
    ∀ t r, step s = .next t → t.latch = some r → r.kind = .decodeFailure →
      s.answer 0 s.pc ≠ 0xCB ∧ (s.answer 0 s.pc ∈ s.params.illegal ∨ s.answer 0 s.pc ∈ Config.illegal)

/-- R324: a step of a running block ends in `UnimplementedOperand` exactly for `STOP` and for the operand paths in
`UNWIRED`, where the decoder maps the byte. UNWIRED and ILLEGAL are quantified (log entry 4); STOP is D10, log entry
22. -/
def Obligations.UnimplementedOperandExactlyForUnwiredPaths : Prop :=
  ∀ s : State, s.Running →
    ((∃ t r, step s = .next t ∧ t.latch = some r ∧ r.kind = .unimplementedOperand) ↔
      unimplementedUnder s.params.unwired (s.answer 0 s.pc) ∧ s.answer 0 s.pc ∉ s.params.illegal)

/-- R321 to R324: a step that ends in a fatal condition leaves every register, flag, `sp`, `pc` and memory byte as they
were; the record names the byte at `pc`, and that one read is the only transaction. That only unprefixed bytes fail and
that nothing else is read are D11 and D25 (log entries 11 and 20); the next state that holds the record in the latch is
D12 and the model's choice (log entry 7). -/
def Obligations.FatalConditionIsAllOrNothing : Prop :=
  ∀ (s t : State) (r : FaultRecord), step s = .next t → t.report = .fatal r →
    t = (s.fetched [.read s.pc (s.answer 0 s.pc)]).failed r ∧
    r.opcode = s.answer 0 s.pc ∧ r.prefixed = false ∧ r.pc = s.pc

/-- R121, R122: the unwired operand forms, sixteen of the two-operand ALU operations and `INC (HL)`, `DEC (HL)`, raise
before any change and any read. UNWIRED is D2 (log entry 4); no operand read is D25, log entry 20. -/
def Obligations.UnwiredOperandFormsRaise : Prop :=
  ∀ s : State,
    (s.params.unwired.alu8HlInd = true →
      ∀ p ∈ ([(.addAHl, 0x86), (.adcAHl, 0x8E), (.subHl, 0x96), (.sbcAHl, 0x9E), (.andHl, 0xA6), (.xorHl, 0xAE),
          (.orHl, 0xB6), (.cpHl, 0xBE)] : List (Instr × Byte)),
        exec p.1 s = .next (s.failed ⟨.unimplementedOperand, p.2, false, s.pc⟩)) ∧
    (s.params.unwired.alu8Imm = true →
      ∀ p ∈ ([(.addAN, 0xC6), (.adcAN, 0xCE), (.subN, 0xD6), (.sbcAN, 0xDE), (.andN, 0xE6), (.xorN, 0xEE),
          (.orN, 0xF6), (.cpN, 0xFE)] : List (Instr × Byte)),
        exec p.1 s = .next (s.failed ⟨.unimplementedOperand, p.2, false, s.pc⟩)) ∧
    (s.params.unwired.incDec8HlInd = true →
      ∀ p ∈ ([(.incHl, 0x34), (.decHl, 0x35)] : List (Instr × Byte)),
        exec p.1 s = .next (s.failed ⟨.unimplementedOperand, p.2, false, s.pc⟩))

/-- R300 and R96: executing `STOP` is its fatal condition, in every state, and so is each byte with no mapping. STOP
is D10, log entry 22; the set is D11, log entry 11. -/
def Obligations.StopAndUnmappedRowsRaise : Prop :=
  ∀ s : State,
    exec .stop s = .next (s.failed ⟨.unimplementedOperand, 0x10, false, s.pc⟩) ∧
    ∀ p ∈ ([(.illegalD3, 0xD3), (.illegalDB, 0xDB), (.illegalDD, 0xDD), (.illegalE3, 0xE3), (.illegalE4, 0xE4),
        (.illegalEB, 0xEB), (.illegalEC, 0xEC), (.illegalED, 0xED), (.illegalF4, 0xF4), (.illegalFC, 0xFC),
        (.illegalFD, 0xFD)] : List (Instr × Byte)),
      encode p.1 = [p.2] ∧ exec p.1 s = .next (s.failed ⟨.decodeFailure, p.2, false, s.pc⟩)

/-- R292 and R372: a successful step outputs `CYCLES(form, taken)`, the figure of the table of R372 for its row and
outcome unless the parameter `CYCLES` replaces it, and a prefixed instruction the one of its own row (R293). The table
is D19, log entry 10. -/
def Obligations.CyclesOutputIsTheTable : Prop :=
  ∀ (i : Instr) (s t : State) (n : Nat) (k : Hook), exec i s = .next t → t.report = .completed n k →
    let row := if i = .prefixCb then prefixedRow (s.answer 0 (s.pc + 1)) else i
    (cyclesTable row (taken i s)).map (s.figure row (taken i s)) = some n ∧
    (s.params.cycles = [] → cyclesTable row (taken i s) = some n)

/-- R40: the hook output is `none` for every instruction except the five named. The visible hook is D9, log entry 22.
-/
def Obligations.HookOutputsAreTheFive : Prop :=
  ∀ (i : Instr) (s t : State) (n : Nat) (k : Hook), exec i s = .next t → t.report = .completed n k →
    k = (match i with
      | .nop => .nop | .halt => .halt | .di => .di | .ei => .ei | .reti => .reti
      | _ => .none)

/-- R282 and R291: an instruction that is no taken control transfer commits `(pc + length) mod 65536`. It states the
last sentence of R291. -/
def Obligations.SequentialInstructionsCommitTheirLength : Prop :=
  ∀ (i : Instr) (s t : State) (n : Nat) (k : Hook), exec i s = .next t → t.report = .completed n k →
    (match i with
      | .jpNn | .jpHl | .jrE | .callNn | .ret | .rst _ | .prefixCb => False
      | .jpCcNn cc | .jrCcE cc | .callCcNn cc | .retCc cc => condHolds cc s.f = false
      | _ => True) →
    t.pc.toNat = (s.pc.toNat + i.length) % 65536

/-- R60, R57: within an instruction every read precedes every write, so instruction bytes are read before any write;
an instruction reads at most three bytes after its opcode byte and writes at most two. Fetch before write is D16, log
entry 20. -/
def Obligations.ReadsPrecedeWrites : Prop :=
  ∀ (i : Instr) (s t : State), exec i s = .next t →
    ∃ rs ws : List Txn, t.bus = s.bus ++ rs ++ ws ∧ (∀ x ∈ rs, x.isRead = true) ∧ (∀ x ∈ ws, x.isRead = false) ∧
      rs.length ≤ 3 ∧ ws.length ≤ 2

/-- R42, R63, R65: memory after a step is memory before it with the step's writes applied in order. Under the closed
reading each read was answered with the byte memory held when the step began; under the open one with the environment's
answer for the number of that read, whatever memory holds. Both readings are D15 (log entry 5); numbering the reads is
the model's (log entry 23). -/
def Obligations.MemoryChangesOnlyByBusWrites : Prop :=
  ∀ s t : State, step s = .next t →
    t.mem = replay t.bus s.mem ∧ t.reads = s.reads + busReads t.bus ∧
    ∀ (rs ws : List Txn) (a : Word) (v : Byte), t.bus = rs ++ .read a v :: ws →
      (s.params.memory = .closed → v = s.byteAt a) ∧
      ∀ answers, s.params.memory = .opened answers → v = oracleAt answers (s.reads + busReads rs)

/-- R68: a store is seen by the next fetch. `LD (HL),n` that stores into the byte right after itself: the next step
decodes the byte it stored, and runs its row or fails on it. It is a rule of the closed reading of memory (R63 (a), log
entry 5): under the open one no read is answered by a write. -/
def Obligations.StoreIsSeenByTheNextStep : Prop :=
  ∀ s : State, s.Running → s.params.memory = .closed → Memory.wf s.mem = true → s.byteAt s.pc = 0x36 →
    0x36 ∉ s.params.illegal → s.hl = s.pc + 2 →
    let v := s.byteAt (s.pc + 1)
    ∃ t, step s = .next t ∧ t.pc = s.pc + 2 ∧ t.byteAt t.pc = v ∧
      step t =
        if v ≠ 0xCB ∧ v ∈ s.params.illegal then
          .next ((t.fetched [.read (s.pc + 2) v]).failed ⟨.decodeFailure, v, false, s.pc + 2⟩)
        else exec (unprefixedRow v) (t.fetched [.read (s.pc + 2) v])

/-! ### The invariant and reset -/

/-- From every state with the invariant, a step that answers a next state gives one with the invariant. The canonical
form and the report field are the model's (log entries 5 and 6). -/
def Obligations.StepKeepsTheInvariant : Prop :=
  ∀ s t : State, s.Inv → step s = .next t → t.Inv

/-- The state right after reset has the invariant, and so has every launch state over canonical memory. -/
def Obligations.LaunchStatesHaveTheInvariant : Prop :=
  State.reset.Inv ∧ ∀ (r : ResetRegs) (p : Params) (m : Memory), Memory.wf m = true → (State.launch r p m).Inv

/-- R361, R363, R364: after reset, whatever the unspecified registers hold, `pc` is the parameter `RESET_PC`, the latch is
empty and memory is what it was; at construction, with the value the spec takes, `pc` is 0x0000 and every byte is 0x00.
RESET_PC is D14, log entry 17; the latch is D12; keeping the parameters and going on with the
environment's answers is the model's (log entry 18). -/
def Obligations.ResetSetsPcAndEmptiesTheLatch : Prop :=
  (∀ (r : ResetRegs) (s : State), (s.assertReset r).pc = s.params.resetPc ∧ (s.assertReset r).latch = none ∧
    (∀ a, (s.assertReset r).byteAt a = s.byteAt a) ∧ (s.assertReset r).params = s.params ∧
    (s.assertReset r).reads = s.reads) ∧
  State.reset.params.resetPc = 0x0000 ∧ State.reset.pc = 0x0000 ∧ State.reset.latch = none ∧
  ∀ a, State.reset.byteAt a = 0x00

/-! ### Memory and the pair views -/

/-- R63, R65: in canonical memory a byte is the last one written there, by the block or by the host; and whatever the
memory's form a write changes no other byte. Under the closed reading a bus read answers that byte; under the open one
it answers what the environment has for the number of the read, whatever the block or the host wrote. The readings are
D15 (log entry 5); numbering the reads is the model's (log entry 23). -/
def Obligations.ReadReturnsTheLastWrite : Prop :=
  ∀ (s : State) (a : Word) (v : Byte),
    (Memory.wf s.mem = true → (s.memWrite a v).byteAt a = v ∧ (s.poke a v).byteAt a = v) ∧
    (∀ x, x ≠ a → (s.memWrite a v).byteAt x = s.byteAt x ∧ (s.poke a v).byteAt x = s.byteAt x) ∧
    (s.params.memory = .closed →
      (Memory.wf s.mem = true → ((s.memWrite a v).memRead a).1 = v ∧ ((s.poke a v).memRead a).1 = v) ∧
      ∀ x, x ≠ a → ((s.memWrite a v).memRead x).1 = s.byteAt x ∧ ((s.poke a v).memRead x).1 = s.byteAt x) ∧
    ∀ answers, s.params.memory = .opened answers → ∀ x,
      ((s.memWrite a v).memRead x).1 = oracleAt answers s.reads ∧ ((s.poke a v).memRead x).1 = oracleAt answers s.reads

/-- A write keeps the canonical form, and canonical memories with the same bytes are the same memory. The
representation is the model's (log entry 5). -/
def Obligations.CanonicalMemoriesAreEqual : Prop :=
  (∀ (m : Memory) (a : Word) (v : Byte), Memory.wf m = true → Memory.wf (Memory.write m a.toNat v) = true) ∧
  ∀ s t : State, Memory.wf s.mem = true → Memory.wf t.mem = true → (∀ a, s.byteAt a = t.byteAt a) → s.mem = t.mem

/-- R22 to R24, R27, R28: the pair views are the two registers side by side, writing one splits it back, the low nibble
of the flags byte is zero, and AF keeps the four flag bits. -/
def Obligations.PairViewsAreComputed : Prop :=
  ∀ (s : State) (v : Word),
    s.bc = s.b ++ s.c ∧ s.de = s.d ++ s.e ∧ s.hl = s.h ++ s.l ∧
    (∃ fb : Byte, s.af = s.a ++ fb ∧ fb.getLsbD 7 = s.f.z ∧ fb.getLsbD 6 = s.f.n ∧ fb.getLsbD 5 = s.f.h ∧
      fb.getLsbD 4 = s.f.c ∧ fb.toNat % 16 = 0) ∧
    s.setBc v = { s with b := v.extractLsb' 8 8, c := v.extractLsb' 0 8 } ∧
    s.setDe v = { s with d := v.extractLsb' 8 8, e := v.extractLsb' 0 8 } ∧
    s.setHl v = { s with h := v.extractLsb' 8 8, l := v.extractLsb' 0 8 } ∧
    s.setAf v = { s with
      a := v.extractLsb' 8 8
      f := ⟨v.getLsbD 7, v.getLsbD 6, v.getLsbD 5, v.getLsbD 4⟩ } ∧
    (s.setAf v).af = v &&& 0xFFF0 ∧
    (s.rp .bc = s.bc ∧ s.rp .de = s.de ∧ s.rp .hl = s.hl ∧ s.rp .sp = s.sp) ∧
    (s.setRp .bc v = s.setBc v ∧ s.setRp .de v = s.setDe v ∧ s.setRp .hl v = s.setHl v ∧
      s.setRp .sp v = { s with sp := v })

/-! ### ALU -/

/-- R123 to R128, with the helper R147. The cycle figures are D19 (log entry 10). -/
def Obligations.AddAndAdcGiveSumAndFlags : Prop :=
  ∀ s : State,
    let sum (v : Byte) (cin : Bool) (t : State) : State :=
      let n := s.a.toNat + v.toNat + cin.toNat
      { t with
        a := BitVec.ofNat 8 (n % 256)
        f := ⟨decide (n % 256 = 0), false, decide (s.a.toNat % 16 + v.toNat % 16 + cin.toNat ≥ 16), decide (n ≥ 256)⟩ }
    let atHl := s.saw [.read s.hl (s.answer 0 s.hl)]
    let atImm := s.saw [.read (s.pc + 1) (s.answer 0 (s.pc + 1))]
    (∀ r, exec (.addAR r) s = .next ((sum (s.reg r) false s).ended (s.pc + 1) (s.figure (.addAR r) true 4))) ∧
    (∀ r, exec (.adcAR r) s = .next ((sum (s.reg r) s.f.c s).ended (s.pc + 1) (s.figure (.adcAR r) true 4))) ∧
    (s.params.unwired.alu8HlInd = false →
      exec .addAHl s = .next ((sum (s.answer 0 s.hl) false atHl).ended (s.pc + 1) (s.figure .addAHl true 8)) ∧
      exec .adcAHl s = .next ((sum (s.answer 0 s.hl) s.f.c atHl).ended (s.pc + 1) (s.figure .adcAHl true 8))) ∧
    (s.params.unwired.alu8Imm = false →
      exec .addAN s = .next ((sum (s.answer 0 (s.pc + 1)) false atImm).ended (s.pc + 2) (s.figure .addAN true 8)) ∧
      exec .adcAN s = .next ((sum (s.answer 0 (s.pc + 1)) s.f.c atImm).ended (s.pc + 2) (s.figure .adcAN true 8)))

/-- R129 to R134, with the helper R148. Z is D4, log entry 9. The cycle figures are D19 (log entry 10). -/
def Obligations.SubAndSbcGiveDifferenceAndFlags : Prop :=
  ∀ s : State,
    let diff (v : Byte) (bin : Bool) (t : State) : State :=
      let n : Int := (s.a.toNat : Int) - v.toNat - bin.toNat
      { t with
        a := BitVec.ofInt 8 (n % 256)
        f := ⟨decide (n % 256 = 0), true, decide (s.a.toNat % 16 < v.toNat % 16 + bin.toNat), decide (n < 0)⟩ }
    let atHl := s.saw [.read s.hl (s.answer 0 s.hl)]
    let atImm := s.saw [.read (s.pc + 1) (s.answer 0 (s.pc + 1))]
    (∀ r, exec (.subR r) s = .next ((diff (s.reg r) false s).ended (s.pc + 1) (s.figure (.subR r) true 4))) ∧
    (∀ r, exec (.sbcAR r) s = .next ((diff (s.reg r) s.f.c s).ended (s.pc + 1) (s.figure (.sbcAR r) true 4))) ∧
    (s.params.unwired.alu8HlInd = false →
      exec .subHl s = .next ((diff (s.answer 0 s.hl) false atHl).ended (s.pc + 1) (s.figure .subHl true 8)) ∧
      exec .sbcAHl s = .next ((diff (s.answer 0 s.hl) s.f.c atHl).ended (s.pc + 1) (s.figure .sbcAHl true 8))) ∧
    (s.params.unwired.alu8Imm = false →
      exec .subN s = .next ((diff (s.answer 0 (s.pc + 1)) false atImm).ended (s.pc + 2) (s.figure .subN true 8)) ∧
      exec .sbcAN s = .next ((diff (s.answer 0 (s.pc + 1)) s.f.c atImm).ended (s.pc + 2) (s.figure .sbcAN true 8)))

/-- R144 to R146: CP sets Z exactly on equality, C exactly when the accumulator is lower, N, and H on a borrow from
bit 4; the accumulator keeps its value. Z is D4, log entry 9. The cycle figures are D19 (log entry 10). -/
def Obligations.CompareWritesOnlyFlags : Prop :=
  ∀ s : State,
    let cmp (v : Byte) (t : State) : State :=
      { t with f := ⟨decide (s.a = v), true, decide (s.a.toNat % 16 < v.toNat % 16), decide (s.a.toNat < v.toNat)⟩ }
    (∀ r, exec (.cpR r) s = .next ((cmp (s.reg r) s).ended (s.pc + 1) (s.figure (.cpR r) true 4))) ∧
    (s.params.unwired.alu8HlInd = false →
      exec .cpHl s =
        .next ((cmp (s.answer 0 s.hl) (s.saw [.read s.hl (s.answer 0 s.hl)])).ended (s.pc + 1) (s.figure .cpHl true 8))) ∧
    (s.params.unwired.alu8Imm = false →
      exec .cpN s =
        .next ((cmp (s.answer 0 (s.pc + 1)) (s.saw [.read (s.pc + 1) (s.answer 0 (s.pc + 1))])).ended (s.pc + 2)
            (s.figure .cpN true 8)))

/-- R135 to R143, with the helper R149 (decision D3 of the spec). The flags are D3, log entry 9. The cycle figures are
D19 (log entry 10). -/
def Obligations.LogicOperationsGiveBitsAndFlags : Prop :=
  ∀ s : State,
    let out (res : Byte) (half : Bool) (t : State) : State :=
      { t with a := res, f := ⟨decide (res.toNat = 0), false, half, false⟩ }
    let m := s.answer 0 s.hl
    let n := s.answer 0 (s.pc + 1)
    let atHl := s.saw [.read s.hl m]
    let atImm := s.saw [.read (s.pc + 1) n]
    (∀ r, exec (.andR r) s = .next ((out (s.a &&& s.reg r) true s).ended (s.pc + 1) (s.figure (.andR r) true 4)) ∧
      exec (.xorR r) s = .next ((out (s.a ^^^ s.reg r) false s).ended (s.pc + 1) (s.figure (.xorR r) true 4)) ∧
      exec (.orR r) s = .next ((out (s.a ||| s.reg r) false s).ended (s.pc + 1) (s.figure (.orR r) true 4))) ∧
    (s.params.unwired.alu8HlInd = false →
      exec .andHl s = .next ((out (s.a &&& m) true atHl).ended (s.pc + 1) (s.figure .andHl true 8)) ∧
      exec .xorHl s = .next ((out (s.a ^^^ m) false atHl).ended (s.pc + 1) (s.figure .xorHl true 8)) ∧
      exec .orHl s = .next ((out (s.a ||| m) false atHl).ended (s.pc + 1) (s.figure .orHl true 8))) ∧
    (s.params.unwired.alu8Imm = false →
      exec .andN s = .next ((out (s.a &&& n) true atImm).ended (s.pc + 2) (s.figure .andN true 8)) ∧
      exec .xorN s = .next ((out (s.a ^^^ n) false atImm).ended (s.pc + 2) (s.figure .xorN true 8)) ∧
      exec .orN s = .next ((out (s.a ||| n) false atImm).ended (s.pc + 2) (s.figure .orN true 8)))

/-- R150 to R153. The cycle figures are D19 (log entry 10). -/
def Obligations.ByteIncrementAndDecrement : Prop :=
  ∀ s : State,
    let up (v : Byte) : Byte := BitVec.ofNat 8 ((v.toNat + 1) % 256)
    let upFlags (v : Byte) : Flags := ⟨decide (v.toNat = 255), false, decide (v.toNat % 16 = 15), s.f.c⟩
    let down (v : Byte) : Byte := BitVec.ofNat 8 ((v.toNat + 255) % 256)
    let downFlags (v : Byte) : Flags := ⟨decide (v.toNat = 1), true, decide (v.toNat % 16 = 0), s.f.c⟩
    let m := s.answer 0 s.hl
    (∀ r, exec (.incR r) s = .next ({ s.setReg r (up (s.reg r)) with f := upFlags (s.reg r) }.ended (s.pc + 1)
        (s.figure (.incR r) true 4)) ∧
      exec (.decR r) s =
        .next ({ s.setReg r (down (s.reg r)) with f := downFlags (s.reg r) }.ended (s.pc + 1) (s.figure (.decR r) true 4))) ∧
    (s.params.unwired.incDec8HlInd = false →
      exec .incHl s = .next ({ (s.poke s.hl (up m)).saw [.read s.hl m, .write s.hl (up m)] with
        f := upFlags m }.ended (s.pc + 1) (s.figure .incHl true 12)) ∧
      exec .decHl s = .next ({ (s.poke s.hl (down m)).saw [.read s.hl m, .write s.hl (down m)] with
        f := downFlags m }.ended (s.pc + 1) (s.figure .decHl true 12)))

/-- R154, R155: modulo 65536, no flag written. The cycle figures are D19 (log entry 10). -/
def Obligations.PairIncrementAndDecrement : Prop :=
  ∀ (s : State) (p : Rp),
    exec (.incRp p) s =
      .next ((s.setRp p (BitVec.ofNat 16 (((s.rp p).toNat + 1) % 65536))).ended (s.pc + 1) (s.figure (.incRp p) true 8)) ∧
    exec (.decRp p) s =
      .next ((s.setRp p (BitVec.ofNat 16 (((s.rp p).toNat + 65535) % 65536))).ended (s.pc + 1) (s.figure (.decRp p) true 8))

/-- R160, both values of `ADDHL_H`. H is D1, log entries 3 and 4. The cycle figures are D19 (log entry 10). -/
def Obligations.AddToHl : Prop :=
  ∀ (s : State) (p : Rp),
    let n := s.hl.toNat + (s.rp p).toNat
    exec (.addHlRp p) s = .next ({ s.setHl (BitVec.ofNat 16 (n % 65536)) with
      f := ⟨decide (n % 65536 = 0), false,
        if s.params.addHlH = AddHlH.bit11 then decide (s.hl.toNat % 0x1000 + (s.rp p).toNat % 0x1000 ≥ 0x1000) else s.f.h,
        decide (n ≥ 65536)⟩ }.ended (s.pc + 1) (s.figure (.addHlRp p) true 8))

/-- R161 and R205: `sp` plus the signed displacement; Z and N cleared, H and C the carries out of bit 3 and bit 7 with
the displacement taken as its unsigned byte. Result and flags are D5, log entry 9. The cycle figures are D19 (log
entry 10). -/
def Obligations.StackPointerPlusDisplacement : Prop :=
  ∀ s : State,
    let e := s.answer 0 (s.pc + 1)
    let res := BitVec.ofInt 16 (((s.sp.toNat : Int) + e.toInt) % 65536)
    let f : Flags := ⟨false, false, decide (s.sp.toNat % 16 + e.toNat % 16 > 15), decide (s.sp.toNat % 256 + e.toNat > 255)⟩
    let atImm := s.saw [.read (s.pc + 1) e]
    exec .addSpE s = .next ({ atImm with sp := res, f := f }.ended (s.pc + 2) (s.figure .addSpE true 16)) ∧
    exec .ldHlSpE s = .next ({ atImm.setHl res with f := f }.ended (s.pc + 2) (s.figure .ldHlSpE true 12))

/-- R165. Details are D24, log entry 9. The cycle figures are D19 (log entry 10). -/
def Obligations.DecimalAdjust : Prop :=
  ∀ s : State,
    let hi := s.f.c || decide (s.a.toNat > 0x99)
    let lo := s.f.h || decide (s.a.toNat % 16 > 9)
    let adj : Nat :=
      if s.f.n = false then (if hi then 0x60 else 0) + (if lo then 0x06 else 0)
      else if s.f.c then (if s.f.h then 0x9A else 0xA0)
      else (if s.f.h then 0xFA else 0)
    let res := (s.a.toNat + adj) % 256
    exec .daa s = .next ({ s with
      a := BitVec.ofNat 8 res
      f := ⟨decide (res = 0), s.f.n, false, if s.f.n = false then hi else s.f.c⟩ }.ended (s.pc + 1) (s.figure .daa true 4))

/-- What `DAA` is for (R17, R165): after adding two valid packed-BCD bytes it leaves their decimal sum modulo 100 and
the decimal carry; after subtracting them, their decimal difference modulo 100 and the decimal borrow. The algorithm's
details are D24, log entry 9. -/
def Obligations.DecimalAdjustCorrectsBcd : Prop :=
  ∀ (s t u : State) (r : Reg8) (x y : Nat), x < 100 → y < 100 →
    s.a = BitVec.ofNat 8 (16 * (x / 10) + x % 10) → s.reg r = BitVec.ofNat 8 (16 * (y / 10) + y % 10) →
    (exec (.addAR r) s = .next t → exec .daa t = .next u →
      u.a = BitVec.ofNat 8 (16 * ((x + y) % 100 / 10) + (x + y) % 10) ∧ u.f.c = decide (x + y ≥ 100) ∧
      u.f.z = decide ((x + y) % 100 = 0)) ∧
    (exec (.subR r) s = .next t → exec .daa t = .next u →
      u.a = BitVec.ofNat 8 (16 * ((x + 100 - y) % 100 / 10) + (x + 100 - y) % 10) ∧ u.f.c = decide (x < y) ∧
      u.f.z = decide (x = y))

/-- R166 to R168. SCF and CCF are D8, log entry 9. The cycle figures are D19 (log entry 10). -/
def Obligations.ComplementAndCarryInstructions : Prop :=
  ∀ s : State,
    exec .cpl s = .next ({ s with
      a := BitVec.ofNat 8 (255 - s.a.toNat), f := ⟨s.f.z, true, true, s.f.c⟩ }.ended (s.pc + 1) (s.figure .cpl true 4)) ∧
    exec .scf s = .next ({ s with f := ⟨s.f.z, false, false, true⟩ }.ended (s.pc + 1) (s.figure .scf true 4)) ∧
    exec .ccf s = .next ({ s with f := ⟨s.f.z, false, false, !s.f.c⟩ }.ended (s.pc + 1) (s.figure .ccf true 4))

/-! ### Loads -/

/-- R181 to R183: a load copies; the address of `LD r,(HL)` is HL from before. The figure of LD r,n is D19 (log entry
10). -/
def Obligations.RegisterLoads : Prop :=
  ∀ (s : State) (rd rs : Reg8),
    exec (.ldRR rd rs) s = .next ((s.setReg rd (s.reg rs)).ended (s.pc + 1) (s.figure (.ldRR rd rs) true 4)) ∧
    exec (.ldRN rd) s = .next (((s.saw [.read (s.pc + 1) (s.answer 0 (s.pc + 1))]).setReg rd
      (s.answer 0 (s.pc + 1))).ended (s.pc + 2) (s.figure (.ldRN rd) true 8)) ∧
    exec (.ldRHl rd) s =
      .next (((s.saw [.read s.hl (s.answer 0 s.hl)]).setReg rd (s.answer 0 s.hl)).ended (s.pc + 1) (s.figure (.ldRHl rd) true 8))

/-- Writing a register sets it and keeps the six others, and nothing but registers (R20: no storage overlap). It
states the "no storage overlap" of R20. -/
def Obligations.RegistersDoNotOverlap : Prop :=
  ∀ (s : State) (rd r : Reg8) (v : Byte),
    (s.setReg rd v).reg r = (if r = rd then v else s.reg r) ∧
    (s.setReg rd v).setReg rd (s.reg rd) = s

/-- R184, R185, R188, R189, R195, R197, R199. Some cycle figures are D19, log entry 10; read before write is D16, log
entry 20. -/
def Obligations.ByteStores : Prop :=
  ∀ s : State,
    let n := s.answer 0 (s.pc + 1)
    let nn : Word := s.answer 1 (s.pc + 2) ++ n
    let one (l : List Txn) (a : Word) (v : Byte) : State := (s.poke a v).saw (l ++ [.write a v])
    let page (o : Byte) : Word := BitVec.ofNat 16 (65280 + o.toNat)
    (∀ r, exec (.ldHlR r) s = .next ((one [] s.hl (s.reg r)).ended (s.pc + 1) (s.figure (.ldHlR r) true 8))) ∧
    exec .ldHlN s = .next ((one [.read (s.pc + 1) n] s.hl n).ended (s.pc + 2) (s.figure .ldHlN true 12)) ∧
    exec .ldBcA s = .next ((one [] s.bc s.a).ended (s.pc + 1) (s.figure .ldBcA true 8)) ∧
    exec .ldDeA s = .next ((one [] s.de s.a).ended (s.pc + 1) (s.figure .ldDeA true 8)) ∧
    exec .ldNnA s = .next ((one [.read (s.pc + 1) n, .read (s.pc + 2) (s.answer 1 (s.pc + 2))] nn s.a).ended (s.pc + 3)
        (s.figure .ldNnA true 16)) ∧
    exec .ldhNA s = .next ((one [.read (s.pc + 1) n] (page n) s.a).ended (s.pc + 2) (s.figure .ldhNA true 12)) ∧
    exec .ldhCA s = .next ((one [] (page s.c) s.a).ended (s.pc + 1) (s.figure .ldhCA true 8))

/-- R186, R187, R194, R196, R198. Some cycle figures are D19, log entry 10; the order of reads is D16, log entry 20.
-/
def Obligations.AccumulatorLoads : Prop :=
  ∀ s : State,
    let n := s.answer 0 (s.pc + 1)
    let nn : Word := s.answer 1 (s.pc + 2) ++ n
    let from' (l : List Txn) (a : Word) : State :=
      { s.saw (l ++ [.read a (s.answer (busReads l) a)]) with a := s.answer (busReads l) a }
    let page (o : Byte) : Word := BitVec.ofNat 16 (65280 + o.toNat)
    exec .ldABc s = .next ((from' [] s.bc).ended (s.pc + 1) (s.figure .ldABc true 8)) ∧
    exec .ldADe s = .next ((from' [] s.de).ended (s.pc + 1) (s.figure .ldADe true 8)) ∧
    exec .ldANn s =
      .next ((from' [.read (s.pc + 1) n, .read (s.pc + 2) (s.answer 1 (s.pc + 2))] nn).ended (s.pc + 3) (s.figure .ldANn true 16)) ∧
    exec .ldhAN s = .next ((from' [.read (s.pc + 1) n] (page n)).ended (s.pc + 2) (s.figure .ldhAN true 12)) ∧
    exec .ldhAC s = .next ((from' [] (page s.c)).ended (s.pc + 1) (s.figure .ldhAC true 8))

/-- R190 to R193: the access is at HL from before; HL then moves by one modulo 65536. The opcode bytes these rules
give are from general knowledge (D22, log entry 8) and are left to `EveryByteIsTheCodeOfOneRow`. -/
def Obligations.PostIncrementAndDecrementLoads : Prop :=
  ∀ s : State,
    let up : Word := BitVec.ofNat 16 ((s.hl.toNat + 1) % 65536)
    let down : Word := BitVec.ofNat 16 ((s.hl.toNat + 65535) % 65536)
    let load := { s.saw [.read s.hl (s.answer 0 s.hl)] with a := s.answer 0 s.hl }
    let store := (s.poke s.hl s.a).saw [.write s.hl s.a]
    exec .ldAHli s = .next ((load.setHl up).ended (s.pc + 1) (s.figure .ldAHli true 8)) ∧
    exec .ldAHld s = .next ((load.setHl down).ended (s.pc + 1) (s.figure .ldAHld true 8)) ∧
    exec .ldHliA s = .next ((store.setHl up).ended (s.pc + 1) (s.figure .ldHliA true 8)) ∧
    exec .ldHldA s = .next ((store.setHl down).ended (s.pc + 1) (s.figure .ldHldA true 8))

/-- R200, R204, R206: little-endian immediates; `LD (nn),SP` stores the low byte first, the second address wrapping.
The order of the writes is D16, log entry 20; the figures are D19, log entry 10. -/
def Obligations.SixteenBitLoads : Prop :=
  ∀ (s : State) (p : Rp),
    let lo := s.answer 0 (s.pc + 1)
    let hi := s.answer 1 (s.pc + 2)
    let nn : Word := hi ++ lo
    let fetched := s.saw [.read (s.pc + 1) lo, .read (s.pc + 2) hi]
    let spLo : Byte := s.sp.extractLsb' 0 8
    let spHi : Byte := s.sp.extractLsb' 8 8
    exec (.ldRpNn p) s = .next ((fetched.setRp p nn).ended (s.pc + 3) (s.figure (.ldRpNn p) true 12)) ∧
    exec .ldSpHl s = .next ({ s with sp := s.hl }.ended (s.pc + 1) (s.figure .ldSpHl true 8)) ∧
    exec .ldNnSp s = .next ((((fetched.poke nn spLo).poke (nn + 1) spHi).saw
      [.write nn spLo, .write (nn + 1) spHi]).ended (s.pc + 3) (s.figure .ldNnSp true 20))

/-! ### Rotates, shifts, bits -/

/-- R220 to R223: bit by bit, and Z cleared even when the result is zero. Clearing Z is D6, log entry 9. The cycle
figures are D19 (log entry 10). -/
def Obligations.AccumulatorRotates : Prop :=
  ∀ s : State,
    let rot (i : Instr) (out : Bool) (bit : Nat → Bool) : Prop :=
      ∃ res : Byte, (∀ k < 8, res.getLsbD k = bit k) ∧
        exec i s = .next ({ s with a := res, f := ⟨false, false, false, out⟩ }.ended (s.pc + 1) (s.figure i true 4))
    rot .rlca (s.a.getLsbD 7) (fun k => s.a.getLsbD ((k + 7) % 8)) ∧
    rot .rrca (s.a.getLsbD 0) (fun k => s.a.getLsbD ((k + 1) % 8)) ∧
    rot .rla (s.a.getLsbD 7) (fun k => if k = 0 then s.f.c else s.a.getLsbD (k - 1)) ∧
    rot .rra (s.a.getLsbD 0) (fun k => if k = 7 then s.f.c else s.a.getLsbD (k + 1))

/-- R226 to R233: the prefixed rotates on a register and on the byte at HL, bit by bit, with Z from the result. The
opcode bytes these rules give are from general knowledge (D22, log entry 8) and are left to
`EveryByteIsTheCodeOfOneRow`. -/
def Obligations.PrefixedRotates : Prop :=
  ∀ s : State,
    let flags (res : Byte) (out : Bool) : Flags := ⟨decide (res.toNat = 0), false, false, out⟩
    let onReg (i : Reg8 → Instr) (out : Byte → Bool) (bit : Byte → Nat → Bool) : Prop :=
      ∀ r, ∃ res : Byte, (∀ k < 8, res.getLsbD k = bit (s.reg r) k) ∧
        exec (i r) s = .next ({ s.setReg r res with f := flags res (out (s.reg r)) }.ended (s.pc + 2)
          (s.figure (i r) true 8))
    let m := s.answer 0 s.hl
    let onHl (i : Instr) (out : Byte → Bool) (bit : Byte → Nat → Bool) : Prop :=
      ∃ res : Byte, (∀ k < 8, res.getLsbD k = bit m k) ∧
        exec i s = .next ({ (s.poke s.hl res).saw [.read s.hl m, .write s.hl res] with
          f := flags res (out m) }.ended (s.pc + 2) (s.figure i true 16))
    let low (v : Byte) := v.getLsbD 0
    let high (v : Byte) := v.getLsbD 7
    let rlc (v : Byte) (k : Nat) := v.getLsbD ((k + 7) % 8)
    let rrc (v : Byte) (k : Nat) := v.getLsbD ((k + 1) % 8)
    let rl (v : Byte) (k : Nat) := if k = 0 then s.f.c else v.getLsbD (k - 1)
    let rr (v : Byte) (k : Nat) := if k = 7 then s.f.c else v.getLsbD (k + 1)
    onReg .rlcR high rlc ∧ onHl .rlcHl high rlc ∧ onReg .rrcR low rrc ∧ onHl .rrcHl low rrc ∧
    onReg .rlR high rl ∧ onHl .rlHl high rl ∧ onReg .rrR low rr ∧ onHl .rrHl low rr

/-- R234 to R241: the prefixed shifts and the swap, bit by bit; SRA keeps bit 7, SWAP clears C. C of SWAP is D7, log
entry 9. -/
def Obligations.PrefixedShiftsAndSwap : Prop :=
  ∀ s : State,
    let flags (res : Byte) (out : Bool) : Flags := ⟨decide (res.toNat = 0), false, false, out⟩
    let onReg (i : Reg8 → Instr) (out : Byte → Bool) (bit : Byte → Nat → Bool) : Prop :=
      ∀ r, ∃ res : Byte, (∀ k < 8, res.getLsbD k = bit (s.reg r) k) ∧
        exec (i r) s = .next ({ s.setReg r res with f := flags res (out (s.reg r)) }.ended (s.pc + 2)
          (s.figure (i r) true 8))
    let m := s.answer 0 s.hl
    let onHl (i : Instr) (out : Byte → Bool) (bit : Byte → Nat → Bool) : Prop :=
      ∃ res : Byte, (∀ k < 8, res.getLsbD k = bit m k) ∧
        exec i s = .next ({ (s.poke s.hl res).saw [.read s.hl m, .write s.hl res] with
          f := flags res (out m) }.ended (s.pc + 2) (s.figure i true 16))
    let low (v : Byte) := v.getLsbD 0
    let high (v : Byte) := v.getLsbD 7
    let none (_ : Byte) := false
    let sla (v : Byte) (k : Nat) := if k = 0 then false else v.getLsbD (k - 1)
    let sra (v : Byte) (k : Nat) := if k = 7 then v.getLsbD 7 else v.getLsbD (k + 1)
    let srl (v : Byte) (k : Nat) := if k = 7 then false else v.getLsbD (k + 1)
    let swap (v : Byte) (k : Nat) := v.getLsbD ((k + 4) % 8)
    onReg .slaR high sla ∧ onHl .slaHl high sla ∧ onReg .sraR low sra ∧ onHl .sraHl low sra ∧
    onReg .srlR low srl ∧ onHl .srlHl low srl ∧ onReg .swapR none swap ∧ onHl .swapHl none swap

/-- R242 to R247: BIT writes flags alone; RES and SET change the one bit and no flag, and store even an unchanged
byte. The opcode bytes these rules give are from general knowledge (D22, log entry 8) and are left to
`EveryByteIsTheCodeOfOneRow`. -/
def Obligations.BitTestResetSet : Prop :=
  ∀ (s : State) (n : Fin 8) (r : Reg8),
    let m := s.answer 0 s.hl
    let test (v : Byte) : Flags := ⟨decide (v.toNat / 2 ^ n.val % 2 = 0), false, true, s.f.c⟩
    let changed (v res : Byte) (b : Bool) : Prop := ∀ k < 8, res.getLsbD k = if k = n.val then b else v.getLsbD k
    let stored (i : Instr) (res : Byte) : State :=
      ((s.poke s.hl res).saw [.read s.hl m, .write s.hl res]).ended (s.pc + 2) (s.figure i true 16)
    exec (.bitR n r) s = .next ({ s with f := test (s.reg r) }.ended (s.pc + 2) (s.figure (.bitR n r) true 8)) ∧
    exec (.bitHl n) s = .next ({ s.saw [.read s.hl m] with f := test m }.ended (s.pc + 2) (s.figure (.bitHl n) true 16)) ∧
    (∃ res, changed (s.reg r) res false ∧ exec (.resR n r) s =
      .next ((s.setReg r res).ended (s.pc + 2) (s.figure (.resR n r) true 8))) ∧
    (∃ res, changed (s.reg r) res true ∧ exec (.setR n r) s =
      .next ((s.setReg r res).ended (s.pc + 2) (s.figure (.setR n r) true 8))) ∧
    (∃ res, changed m res false ∧ exec (.resHl n) s = .next (stored (.resHl n) res)) ∧
    (∃ res, changed m res true ∧ exec (.setHl n) s = .next (stored (.setHl n) res))

/-! ### Control flow and the stack -/

/-- R263 to R265: absolute jumps; both immediate bytes are read whether or not the jump is taken. That the immediate
is read when not taken is D16 (log entry 20). -/
def Obligations.AbsoluteJumps : Prop :=
  ∀ s : State,
    let lo := s.answer 0 (s.pc + 1)
    let hi := s.answer 1 (s.pc + 2)
    let nn : Word := hi ++ lo
    let fetched := s.saw [.read (s.pc + 1) lo, .read (s.pc + 2) hi]
    let conditional (cc : Cond) (holds : Bool) : Prop :=
      exec (.jpCcNn cc) s =
        .next (if holds then fetched.ended nn (s.figure (.jpCcNn cc) true 16)
          else fetched.ended (s.pc + 3) (s.figure (.jpCcNn cc) false 12))
    exec .jpNn s = .next (fetched.ended nn (s.figure .jpNn true 16)) ∧
    conditional .nz (!s.f.z) ∧ conditional .z s.f.z ∧ conditional .nc (!s.f.c) ∧ conditional .c s.f.c ∧
    exec .jpHl s = .next (s.ended (s.h ++ s.l) (s.figure .jpHl true 4))

/-- R266, R267: the displacement is signed and counts from `pc + 2`, modulo 65536. That the immediate is read when not
taken is D16 (log entry 20). -/
def Obligations.RelativeJumps : Prop :=
  ∀ s : State,
    let e := s.answer 0 (s.pc + 1)
    let target : Word := BitVec.ofInt 16 (((s.pc.toNat : Int) + 2 + e.toInt) % 65536)
    let fetched := s.saw [.read (s.pc + 1) e]
    let conditional (cc : Cond) (holds : Bool) : Prop :=
      exec (.jrCcE cc) s =
        .next (if holds then fetched.ended target (s.figure (.jrCcE cc) true 16)
          else fetched.ended (s.pc + 2) (s.figure (.jrCcE cc) false 12))
    exec .jrE s = .next (fetched.ended target (s.figure .jrE true 16)) ∧
    conditional .nz (!s.f.z) ∧ conditional .z s.f.z ∧ conditional .nc (!s.f.c) ∧ conditional .c s.f.c

/-- R269, R270, R275, with the push of R261: the return address, high byte at `sp-1` and low byte at `sp-2`. Immediate
reads first is D16, log entry 20; RST is D18, log entry 22. -/
def Obligations.CallsPushTheReturnAddress : Prop :=
  ∀ s : State,
    let lo := s.answer 0 (s.pc + 1)
    let hi := s.answer 1 (s.pc + 2)
    let nn : Word := hi ++ lo
    let fetched := s.saw [.read (s.pc + 1) lo, .read (s.pc + 2) hi]
    let pushed (t : State) (v : Word) : State :=
      let vh : Byte := v.extractLsb' 8 8
      let vl : Byte := v.extractLsb' 0 8
      { ((t.poke (s.sp - 1) vh).poke (s.sp - 2) vl).saw [.write (s.sp - 1) vh, .write (s.sp - 2) vl] with
        sp := s.sp - 2 }
    exec .callNn s = .next ((pushed fetched (s.pc + 3)).ended nn (s.figure .callNn true 24)) ∧
    (∀ cc, exec (.callCcNn cc) s =
      .next (if condHolds cc s.f then (pushed fetched (s.pc + 3)).ended nn (s.figure (.callCcNn cc) true 24)
        else fetched.ended (s.pc + 3) (s.figure (.callCcNn cc) false 12))) ∧
    ∀ n : Fin 8, exec (.rst n) s =
      .next ((pushed s (s.pc + 1)).ended (BitVec.ofNat 16 (n.val * 8)) (s.figure (.rst n) true 16))

/-- R272, R273, with the pop of R262: low byte at `sp`, then high byte at `sp+1`; not taken, nothing is read. The
opcode bytes these rules give are from general knowledge (D22, log entry 8) and are left to
`EveryByteIsTheCodeOfOneRow`. -/
def Obligations.ReturnsPopThePc : Prop :=
  ∀ s : State,
    let lo := s.answer 0 s.sp
    let hi := s.answer 1 (s.sp + 1)
    let popped : State := { s.saw [.read s.sp lo, .read (s.sp + 1) hi] with sp := s.sp + 2 }
    exec .ret s = .next (popped.ended (hi ++ lo) (s.figure .ret true 16)) ∧
    ∀ cc, exec (.retCc cc) s =
      .next (if condHolds cc s.f then popped.ended (hi ++ lo) (s.figure (.retCc cc) true 20)
        else s.ended (s.pc + 1) (s.figure (.retCc cc) false 8))

/-- R278, R279, with the push of R261 and the flags byte of R27. The opcode bytes these rules give are from general
knowledge (D22, log entry 8) and are left to `EveryByteIsTheCodeOfOneRow`. -/
def Obligations.PushStoresThePair : Prop :=
  ∀ s : State,
    let pushed (i : Instr) (vh vl : Byte) : State :=
      ({ ((s.poke (s.sp - 1) vh).poke (s.sp - 2) vl).saw [.write (s.sp - 1) vh, .write (s.sp - 2) vl] with
        sp := s.sp - 2 }).ended (s.pc + 1) (s.figure i true 16)
    exec (.pushRr .bc) s = .next (pushed (.pushRr .bc) s.b s.c) ∧
    exec (.pushRr .de) s = .next (pushed (.pushRr .de) s.d s.e) ∧
    exec (.pushRr .hl) s = .next (pushed (.pushRr .hl) s.h s.l) ∧
    ∃ fb : Byte, (∀ k < 8, fb.getLsbD k =
        if k = 7 then s.f.z else if k = 6 then s.f.n else if k = 5 then s.f.h else if k = 4 then s.f.c else false) ∧
      exec .pushAf s = .next (pushed .pushAf s.a fb)

/-- R280, R281, with the pop of R262: `POP AF` drops the low nibble of the popped low byte. The opcode bytes these
rules give are from general knowledge (D22, log entry 8) and are left to `EveryByteIsTheCodeOfOneRow`. -/
def Obligations.PopRestoresThePair : Prop :=
  ∀ s : State,
    let lo := s.answer 0 s.sp
    let hi := s.answer 1 (s.sp + 1)
    let popped : State := { s.saw [.read s.sp lo, .read (s.sp + 1) hi] with sp := s.sp + 2 }
    exec (.popRr .bc) s = .next ({ popped with b := hi, c := lo }.ended (s.pc + 1) (s.figure (.popRr .bc) true 12)) ∧
    exec (.popRr .de) s = .next ({ popped with d := hi, e := lo }.ended (s.pc + 1) (s.figure (.popRr .de) true 12)) ∧
    exec (.popRr .hl) s = .next ({ popped with h := hi, l := lo }.ended (s.pc + 1) (s.figure (.popRr .hl) true 12)) ∧
    exec .popAf s = .next ({ popped with
      a := hi, f := ⟨lo.getLsbD 7, lo.getLsbD 6, lo.getLsbD 5, lo.getLsbD 4⟩ }.ended (s.pc + 1) (s.figure .popAf true 12))

/-- The property R262 quotes: PUSH then POP of the same pair restores it and leaves `sp` unchanged; and a CALL, then a
RET, comes back to the byte after the CALL with `sp` as it was. The statement is about the two instructions run one
after the other. What comes back out of memory is the closed reading's, over canonical memory, as in every state of a
run (`StepKeepsTheInvariant`; R63 (a), log entry 5); `sp` and the registers outside the pair hold under both readings. -/
def Obligations.StackRoundTrips : Prop :=
  (∀ (q : Rp2) (s : State), ∃ t u, exec (.pushRr q) s = .next t ∧ exec (.popRr q) t = .next u ∧
    u.sp = s.sp ∧ regsKept (rp2Regs q) s u ∧ (q ≠ .af → u.f = s.f) ∧
    (s.params.memory = .closed → Memory.wf s.mem = true →
      u.rp2 q = s.rp2 q ∧ (∀ r, u.reg r = s.reg r) ∧ u.f = s.f)) ∧
  (∀ s : State, ∃ t u, exec .pushAf s = .next t ∧ exec .popAf t = .next u ∧ u.sp = s.sp ∧ regsKept [.a] s u ∧
    (s.params.memory = .closed → Memory.wf s.mem = true → u.af = s.af ∧ (∀ r, u.reg r = s.reg r) ∧ u.f = s.f)) ∧
  ∀ s : State, ∃ t u, exec .callNn s = .next t ∧ exec .ret t = .next u ∧
    u.sp = s.sp ∧ (∀ r, u.reg r = s.reg r) ∧ u.f = s.f ∧
    (s.params.memory = .closed → Memory.wf s.mem = true → u.pc = s.pc + 3)

/-- R295 to R299: the hooks advance `pc` past their one byte, report their cycles and themselves, and change nothing
else; `RETI` does not pop and `HALT` does not stop. Stubs and figures are D9 and D19, log entries 22 and 10. -/
def Obligations.HooksChangeNothingElse : Prop :=
  ∀ s : State,
    let hook (i : Instr) (k : Hook) (n : Nat) : Prop :=
      exec i s = .next { s with pc := BitVec.ofNat 16 ((s.pc.toNat + 1) % 65536), report := .completed (s.figure i true n) k }
    hook .nop .nop 4 ∧ hook .halt .halt 4 ∧ hook .di .di 4 ∧ hook .ei .ei 4 ∧ hook .reti .reti 16

/-! ### Frames -/

/-- The frame of the ALU forms whose destination is the accumulator: they write A (CP nothing) and the flags. It is a
frame: what the rules of the forms leave unwritten. -/
def Obligations.AccumulatorFormsFrame : Prop :=
  ∀ (s t : State) (i : Instr),
    (∃ r, i ∈ ([.addAR r, .adcAR r, .subR r, .sbcAR r, .andR r, .xorR r, .orR r, .cpR r] : List Instr)) ∨
    (s.params.unwired.alu8HlInd = false ∧
      i ∈ ([.addAHl, .adcAHl, .subHl, .sbcAHl, .andHl, .xorHl, .orHl, .cpHl] : List Instr)) ∨
    (s.params.unwired.alu8Imm = false ∧
      i ∈ ([.addAN, .adcAN, .subN, .sbcAN, .andN, .xorN, .orN, .cpN] : List Instr)) ∨
    i ∈ ([.daa, .cpl, .scf, .ccf, .rlca, .rrca, .rla, .rra] : List Instr) →
    exec i s = .next t →
    regsKept [.a] s t ∧ ((∃ r, i = .cpR r) ∨ i ∈ ([.cpHl, .cpN, .scf, .ccf] : List Instr) → t.a = s.a) ∧
    (i = .cpl → t.f.z = s.f.z ∧ t.f.c = s.f.c) ∧ (i = .scf ∨ i = .ccf → t.f.z = s.f.z) ∧ (i = .daa → t.f.n = s.f.n) ∧
    t.sp = s.sp ∧ controlKept s t ∧ memKept [] s t

/-- The frame of the forms that write one register `r`: INC and DEC on a register keep C, the prefixed rotates and
shifts may write all four flags, BIT writes no register and keeps C, and RES and SET keep every flag. It is a frame:
what the rules of the forms leave unwritten. -/
def Obligations.OneRegisterFormsFrame : Prop :=
  ∀ (s t : State) (i : Instr) (r : Reg8) (n : Fin 8),
    i ∈ ([.incR r, .decR r, .rlcR r, .rrcR r, .rlR r, .rrR r, .slaR r, .sraR r, .swapR r, .srlR r, .bitR n r,
      .resR n r, .setR n r] : List Instr) → exec i s = .next t →
    regsKept [r] s t ∧ (i = .bitR n r → t.reg r = s.reg r) ∧ (i = .resR n r ∨ i = .setR n r → t.f = s.f) ∧
    (i = .incR r ∨ i = .decR r ∨ i = .bitR n r → t.f.c = s.f.c) ∧
    t.sp = s.sp ∧ controlKept s t ∧ memKept [] s t

/-- The frame of the loads into registers and of the 16-bit register forms: they store nothing; the named destinations
and, for `(HL+)` and `(HL-)`, HL change. It is a frame: what the rules of the forms leave unwritten. -/
def Obligations.RegisterDestinationFrame : Prop :=
  ∀ (s t : State) (rd rs : Reg8) (p : Rp),
    let kept (i : Instr) (written : List Reg8) (spMay flagsMay : Bool) : Prop :=
      exec i s = .next t → regsKept written s t ∧ (spMay = false → t.sp = s.sp) ∧ (flagsMay = false → t.f = s.f) ∧
        controlKept s t ∧ memKept [] s t
    kept (.ldRR rd rs) [rd] false false ∧ kept (.ldRN rd) [rd] false false ∧ kept (.ldRHl rd) [rd] false false ∧
    kept .ldABc [.a] false false ∧ kept .ldADe [.a] false false ∧ kept .ldANn [.a] false false ∧
    kept .ldhAN [.a] false false ∧ kept .ldhAC [.a] false false ∧
    kept .ldAHli [.a, .h, .l] false false ∧ kept .ldAHld [.a, .h, .l] false false ∧
    kept (.ldRpNn p) (rpRegs p) (p = .sp) false ∧ kept (.incRp p) (rpRegs p) (p = .sp) false ∧
    kept (.decRp p) (rpRegs p) (p = .sp) false ∧ kept .ldSpHl [] true false ∧
    kept (.addHlRp p) [.h, .l] false true ∧ kept .addSpE [] true true ∧ kept .ldHlSpE [.h, .l] false true

/-- The frame of the storing forms: for every address `a`, if it is the one the meaning stores to, every other byte
reads as before; no register changes but HL for `(HL+)` and `(HL-)`; the flags change only for the read-modify-write
forms, INC and DEC keeping C, RES and SET keeping all. It is a frame: what the rules of the forms leave unwritten. -/
def Obligations.StoringFormsFrame : Prop :=
  ∀ (s t : State) (a : Word) (r : Reg8) (n : Fin 8),
    let kept (i : Instr) (addr : Word) (written : List Reg8) : Prop :=
      exec i s = .next t → a = addr → regsKept written s t ∧ memKept [a] s t ∧ t.sp = s.sp ∧ t.params = s.params ∧
        (t.latch = s.latch ∨ (s.params.unwired.incDec8HlInd = true ∧ (i = .incHl ∨ i = .decHl)))
    let flagsKept (i : Instr) : Prop := exec i s = .next t → t.f = s.f
    (∀ i ∈ ([.ldHlR r, .ldHlN, .incHl, .decHl, .rlcHl, .rrcHl, .rlHl, .rrHl, .slaHl, .sraHl, .swapHl, .srlHl,
        .resHl n, .setHl n] : List Instr), kept i s.hl []) ∧
    kept .ldHliA s.hl [.h, .l] ∧ kept .ldHldA s.hl [.h, .l] ∧ kept .ldBcA s.bc [] ∧ kept .ldDeA s.de [] ∧
    kept .ldNnA s.imm16.1 [] ∧ kept .ldhNA (highPage s.imm8.1) [] ∧ kept .ldhCA (highPage s.c) [] ∧
    (∀ i ∈ ([.ldHlR r, .ldHlN, .ldHliA, .ldHldA, .ldBcA, .ldDeA, .ldNnA, .ldhNA, .ldhCA, .resHl n, .setHl n] :
        List Instr), flagsKept i) ∧
    (∀ i ∈ ([.incHl, .decHl] : List Instr), exec i s = .next t → t.f.c = s.f.c) ∧
    (exec (.bitHl n) s = .next t → regsKept [] s t ∧ memKept [] s t ∧ t.f.c = s.f.c ∧ t.sp = s.sp ∧ controlKept s t) ∧
    (exec .ldNnSp s = .next t → regsKept [] s t ∧ memKept [s.imm16.1, s.imm16.1 + 1] s t ∧ t.f = s.f ∧ t.sp = s.sp ∧
      controlKept s t)

/-- The frame of the stack and control-flow forms: pushes store at `sp-1` and `sp-2` only; pops, returns and jumps
store nothing; a pop writes its pair, `POP AF` also the flags. It is a frame: what the rules of the forms leave
unwritten. -/
def Obligations.StackAndControlFlowFrame : Prop :=
  ∀ (s t : State) (cc : Cond) (q : Rp2) (n : Fin 8),
    let kept (i : Instr) (written : List Reg8) (stored : List Word) (sp : Word) : Prop :=
      exec i s = .next t → regsKept written s t ∧ memKept stored s t ∧ t.sp = sp ∧ controlKept s t
    let slot : List Word := [s.sp - 1, s.sp - 2]
    kept (.pushRr q) [] slot (s.sp - 2) ∧ kept .pushAf [] slot (s.sp - 2) ∧ kept .callNn [] slot (s.sp - 2) ∧
    kept (.rst n) [] slot (s.sp - 2) ∧
    kept (.callCcNn cc) [] (if condHolds cc s.f then slot else []) (if condHolds cc s.f then s.sp - 2 else s.sp) ∧
    kept .ret [] [] (s.sp + 2) ∧ kept (.retCc cc) [] [] (if condHolds cc s.f then s.sp + 2 else s.sp) ∧
    kept (.popRr q) (rp2Regs q) [] (s.sp + 2) ∧ kept .popAf [.a] [] (s.sp + 2) ∧
    kept .jpNn [] [] s.sp ∧ kept (.jpCcNn cc) [] [] s.sp ∧ kept .jpHl [] [] s.sp ∧ kept .jrE [] [] s.sp ∧
    kept (.jrCcE cc) [] [] s.sp ∧
    (∀ i ∈ ([.pushRr q, .pushAf, .callNn, .callCcNn cc, .rst n, .ret, .retCc cc, .jpNn, .jpCcNn cc, .jpHl, .jrE,
        .jrCcE cc] : List Instr), exec i s = .next t → t.f = s.f) ∧
    (q ≠ .af → exec (.popRr q) s = .next t → t.f = s.f)

/-- R29: C changes only by the instructions the table lists; no prefixed BIT, RES or SET, no load, no transfer and no
8-bit INC or DEC changes it, and every instruction outside the ALU, the rotates, `LD HL,SP+e` and the pops keeps all
four flags. The table of R29 summarises decisions as well (log entry 9). -/
def Obligations.OnlyListedInstructionsChangeFlags : Prop :=
  ∀ (i : Instr) (s t : State), exec i s = .next t → i ≠ .prefixCb →
    (t.f.c ≠ s.f.c → match i with
      | .addAR _ | .addAHl | .addAN | .adcAR _ | .adcAHl | .adcAN | .subR _ | .subHl | .subN | .sbcAR _ | .sbcAHl
      | .sbcAN | .andR _ | .andHl | .andN | .xorR _ | .xorHl | .xorN | .orR _ | .orHl | .orN | .cpR _ | .cpHl | .cpN
      | .addHlRp _ | .addSpE | .ldHlSpE | .daa | .scf | .ccf | .rlca | .rrca | .rla | .rra
      | .rlcR _ | .rlcHl | .rrcR _ | .rrcHl | .rlR _ | .rlHl | .rrR _ | .rrHl | .slaR _ | .slaHl | .sraR _ | .sraHl
      | .swapR _ | .swapHl | .srlR _ | .srlHl | .popAf | .popRr .af => True
      | _ => False) ∧
    (t.f ≠ s.f → match i with
      | .incRp _ | .decRp _ => False
      | .ldRR _ _ | .ldRN _ | .ldRHl _ | .ldHlR _ | .ldHlN | .ldABc | .ldADe | .ldBcA | .ldDeA | .ldAHli | .ldAHld
      | .ldHliA | .ldHldA | .ldANn | .ldNnA | .ldhAN | .ldhNA | .ldhAC | .ldhCA | .ldRpNn _ | .ldSpHl | .ldNnSp => False
      | .resR _ _ | .resHl _ | .setR _ _ | .setHl _ => False
      | .jpNn | .jpCcNn _ | .jpHl | .jrE | .jrCcE _ | .callNn | .callCcNn _ | .ret | .retCc _ | .rst _ => False
      | .pushRr _ | .pushAf | .popRr .bc | .popRr .de | .popRr .hl => False
      | .nop | .stop | .halt | .di | .ei | .reti => False
      | _ => True)
end

