-- ==== Sys2Proof/Laws/Decode.lean ====
section
/-! SUPPORT. The two decode tables and the encoder, byte by byte. -/

namespace Sys2Proof

/-- The row of an unprefixed byte is encoded by that byte. -/
theorem encode_unprefixedRow : ∀ op : Byte, encode (unprefixedRow op) = [op] := by decide

/-- The row of a prefixed byte is encoded by the prefix and that byte. -/
theorem encode_prefixedRow : ∀ op : Byte, encode (prefixedRow op) = [0xCB, op] := by decide

/-- No row of the unprefixed table belongs to the prefixed one. -/
theorem unprefixedRow_isPrefixed : ∀ op : Byte, (unprefixedRow op).isPrefixed = false := by decide

/-- Every row of the prefixed table belongs to it. -/
theorem prefixedRow_isPrefixed : ∀ op : Byte, (prefixedRow op).isPrefixed = true := by decide

/-- The rows of the bytes with no mapping. -/
theorem unprefixedRow_noMapping : ∀ op : Byte, (unprefixedRow op).noMapping = true ↔ op ∈ Config.illegal := by decide

/-- The marker is the row of 0xCB alone. -/
theorem unprefixedRow_isMarker : ∀ op : Byte, (unprefixedRow op).isMarker = true ↔ op = 0xCB := by decide

/-- The tables hold no field value that a row excludes. -/
theorem unprefixedRow_fieldsAllowed : ∀ op : Byte, (unprefixedRow op).fieldsAllowed = true := by decide

/-- What `decode` reads after a first byte other than the prefix. -/
theorem decode_cons {op : Byte} (h : op ≠ 0xCB) (rest : List Byte) : decode (op :: rest) = .ok (unprefixedRow op, rest) := by
  cases rest with
  | nil => rfl
  | cons op2 rest => exact if_neg h

/-- What `decode` reads after the prefix. -/
theorem decode_prefix (op : Byte) (rest : List Byte) : decode (0xCB :: op :: rest) = .ok (prefixedRow op, rest) := rfl

/-- Two opcode bytes for the rows of the prefixed table, one for the others. -/
theorem encode_length (i : Instr) : (encode i).length = if i.isPrefixed then 2 else 1 := by
  cases i <;> rfl

/-- An instruction's length in bytes is its opcode bytes and its immediates. -/
theorem length_eq (i : Instr) : i.length = (encode i).length + i.immBytes := by
  rw [encode_length, Instr.length]

end Sys2Proof
end

