-- ==== Sys2Proof/Laws/State.lean ====
section
/-! SUPPORT. One lemma per field per update, so that no proof unfolds a record update, and how the updates combine. -/

namespace Sys2Proof.Machine

/-! ### A byte changed in memory -/

@[simp] theorem State.poke_a (s : State) (x : Word) (v : Byte) : (s.poke x v).a = s.a := rfl
@[simp] theorem State.poke_b (s : State) (x : Word) (v : Byte) : (s.poke x v).b = s.b := rfl
@[simp] theorem State.poke_c (s : State) (x : Word) (v : Byte) : (s.poke x v).c = s.c := rfl
@[simp] theorem State.poke_d (s : State) (x : Word) (v : Byte) : (s.poke x v).d = s.d := rfl
@[simp] theorem State.poke_e (s : State) (x : Word) (v : Byte) : (s.poke x v).e = s.e := rfl
@[simp] theorem State.poke_h (s : State) (x : Word) (v : Byte) : (s.poke x v).h = s.h := rfl
@[simp] theorem State.poke_l (s : State) (x : Word) (v : Byte) : (s.poke x v).l = s.l := rfl
@[simp] theorem State.poke_f (s : State) (x : Word) (v : Byte) : (s.poke x v).f = s.f := rfl
@[simp] theorem State.poke_pc (s : State) (x : Word) (v : Byte) : (s.poke x v).pc = s.pc := rfl
@[simp] theorem State.poke_sp (s : State) (x : Word) (v : Byte) : (s.poke x v).sp = s.sp := rfl
@[simp] theorem State.poke_latch (s : State) (x : Word) (v : Byte) : (s.poke x v).latch = s.latch := rfl
@[simp] theorem State.poke_mem (s : State) (x : Word) (v : Byte) : (s.poke x v).mem = Memory.write s.mem x.toNat v := rfl
@[simp] theorem State.poke_report (s : State) (x : Word) (v : Byte) : (s.poke x v).report = s.report := rfl
@[simp] theorem State.poke_bus (s : State) (x : Word) (v : Byte) : (s.poke x v).bus = s.bus := rfl
@[simp] theorem State.poke_params (s : State) (x : Word) (v : Byte) : (s.poke x v).params = s.params := rfl
@[simp] theorem State.poke_reads (s : State) (x : Word) (v : Byte) : (s.poke x v).reads = s.reads := rfl

/-! ### Transactions recorded -/

@[simp] theorem State.saw_a (s : State) (ts : List Txn) : (s.saw ts).a = s.a := rfl
@[simp] theorem State.saw_b (s : State) (ts : List Txn) : (s.saw ts).b = s.b := rfl
@[simp] theorem State.saw_c (s : State) (ts : List Txn) : (s.saw ts).c = s.c := rfl
@[simp] theorem State.saw_d (s : State) (ts : List Txn) : (s.saw ts).d = s.d := rfl
@[simp] theorem State.saw_e (s : State) (ts : List Txn) : (s.saw ts).e = s.e := rfl
@[simp] theorem State.saw_h (s : State) (ts : List Txn) : (s.saw ts).h = s.h := rfl
@[simp] theorem State.saw_l (s : State) (ts : List Txn) : (s.saw ts).l = s.l := rfl
@[simp] theorem State.saw_f (s : State) (ts : List Txn) : (s.saw ts).f = s.f := rfl
@[simp] theorem State.saw_pc (s : State) (ts : List Txn) : (s.saw ts).pc = s.pc := rfl
@[simp] theorem State.saw_sp (s : State) (ts : List Txn) : (s.saw ts).sp = s.sp := rfl
@[simp] theorem State.saw_latch (s : State) (ts : List Txn) : (s.saw ts).latch = s.latch := rfl
@[simp] theorem State.saw_mem (s : State) (ts : List Txn) : (s.saw ts).mem = s.mem := rfl
@[simp] theorem State.saw_report (s : State) (ts : List Txn) : (s.saw ts).report = s.report := rfl
@[simp] theorem State.saw_bus (s : State) (ts : List Txn) : (s.saw ts).bus = s.bus ++ ts := rfl
@[simp] theorem State.saw_params (s : State) (ts : List Txn) : (s.saw ts).params = s.params := rfl
@[simp] theorem State.saw_reads (s : State) (ts : List Txn) : (s.saw ts).reads = s.reads + busReads ts := rfl

/-! ### The transactions of a step that begins -/

@[simp] theorem State.fetched_a (s : State) (ts : List Txn) : (s.fetched ts).a = s.a := rfl
@[simp] theorem State.fetched_b (s : State) (ts : List Txn) : (s.fetched ts).b = s.b := rfl
@[simp] theorem State.fetched_c (s : State) (ts : List Txn) : (s.fetched ts).c = s.c := rfl
@[simp] theorem State.fetched_d (s : State) (ts : List Txn) : (s.fetched ts).d = s.d := rfl
@[simp] theorem State.fetched_e (s : State) (ts : List Txn) : (s.fetched ts).e = s.e := rfl
@[simp] theorem State.fetched_h (s : State) (ts : List Txn) : (s.fetched ts).h = s.h := rfl
@[simp] theorem State.fetched_l (s : State) (ts : List Txn) : (s.fetched ts).l = s.l := rfl
@[simp] theorem State.fetched_f (s : State) (ts : List Txn) : (s.fetched ts).f = s.f := rfl
@[simp] theorem State.fetched_pc (s : State) (ts : List Txn) : (s.fetched ts).pc = s.pc := rfl
@[simp] theorem State.fetched_sp (s : State) (ts : List Txn) : (s.fetched ts).sp = s.sp := rfl
@[simp] theorem State.fetched_latch (s : State) (ts : List Txn) : (s.fetched ts).latch = s.latch := rfl
@[simp] theorem State.fetched_mem (s : State) (ts : List Txn) : (s.fetched ts).mem = s.mem := rfl
@[simp] theorem State.fetched_report (s : State) (ts : List Txn) : (s.fetched ts).report = s.report := rfl
@[simp] theorem State.fetched_bus (s : State) (ts : List Txn) : (s.fetched ts).bus = ts := rfl
@[simp] theorem State.fetched_reads (s : State) (ts : List Txn) : (s.fetched ts).reads = s.reads + busReads ts := rfl
@[simp] theorem State.fetched_params (s : State) (ts : List Txn) : (s.fetched ts).params = s.params := rfl

/-! ### The end of a completed step -/

@[simp] theorem State.ended_a (s : State) (x : Word) (n : Nat) : (s.ended x n).a = s.a := rfl
@[simp] theorem State.ended_b (s : State) (x : Word) (n : Nat) : (s.ended x n).b = s.b := rfl
@[simp] theorem State.ended_c (s : State) (x : Word) (n : Nat) : (s.ended x n).c = s.c := rfl
@[simp] theorem State.ended_d (s : State) (x : Word) (n : Nat) : (s.ended x n).d = s.d := rfl
@[simp] theorem State.ended_e (s : State) (x : Word) (n : Nat) : (s.ended x n).e = s.e := rfl
@[simp] theorem State.ended_h (s : State) (x : Word) (n : Nat) : (s.ended x n).h = s.h := rfl
@[simp] theorem State.ended_l (s : State) (x : Word) (n : Nat) : (s.ended x n).l = s.l := rfl
@[simp] theorem State.ended_f (s : State) (x : Word) (n : Nat) : (s.ended x n).f = s.f := rfl
@[simp] theorem State.ended_pc (s : State) (x : Word) (n : Nat) : (s.ended x n).pc = x := rfl
@[simp] theorem State.ended_sp (s : State) (x : Word) (n : Nat) : (s.ended x n).sp = s.sp := rfl
@[simp] theorem State.ended_latch (s : State) (x : Word) (n : Nat) : (s.ended x n).latch = s.latch := rfl
@[simp] theorem State.ended_mem (s : State) (x : Word) (n : Nat) : (s.ended x n).mem = s.mem := rfl
@[simp] theorem State.ended_report (s : State) (x : Word) (n : Nat) : (s.ended x n).report = .completed n .none := rfl
@[simp] theorem State.ended_bus (s : State) (x : Word) (n : Nat) : (s.ended x n).bus = s.bus := rfl
@[simp] theorem State.ended_params (s : State) (x : Word) (n : Nat) : (s.ended x n).params = s.params := rfl
@[simp] theorem State.ended_reads (s : State) (x : Word) (n : Nat) : (s.ended x n).reads = s.reads := rfl

/-! ### A latched record -/

@[simp] theorem State.failed_a (s : State) (r : FaultRecord) : (s.failed r).a = s.a := rfl
@[simp] theorem State.failed_b (s : State) (r : FaultRecord) : (s.failed r).b = s.b := rfl
@[simp] theorem State.failed_c (s : State) (r : FaultRecord) : (s.failed r).c = s.c := rfl
@[simp] theorem State.failed_d (s : State) (r : FaultRecord) : (s.failed r).d = s.d := rfl
@[simp] theorem State.failed_e (s : State) (r : FaultRecord) : (s.failed r).e = s.e := rfl
@[simp] theorem State.failed_h (s : State) (r : FaultRecord) : (s.failed r).h = s.h := rfl
@[simp] theorem State.failed_l (s : State) (r : FaultRecord) : (s.failed r).l = s.l := rfl
@[simp] theorem State.failed_f (s : State) (r : FaultRecord) : (s.failed r).f = s.f := rfl
@[simp] theorem State.failed_pc (s : State) (r : FaultRecord) : (s.failed r).pc = s.pc := rfl
@[simp] theorem State.failed_sp (s : State) (r : FaultRecord) : (s.failed r).sp = s.sp := rfl
@[simp] theorem State.failed_latch (s : State) (r : FaultRecord) : (s.failed r).latch = some r := rfl
@[simp] theorem State.failed_mem (s : State) (r : FaultRecord) : (s.failed r).mem = s.mem := rfl
@[simp] theorem State.failed_report (s : State) (r : FaultRecord) : (s.failed r).report = .fatal r := rfl
@[simp] theorem State.failed_bus (s : State) (r : FaultRecord) : (s.failed r).bus = s.bus := rfl
@[simp] theorem State.failed_params (s : State) (r : FaultRecord) : (s.failed r).params = s.params := rfl
@[simp] theorem State.failed_reads (s : State) (r : FaultRecord) : (s.failed r).reads = s.reads := rfl

/-! ### The flags -/

@[simp] theorem State.setFlags_a (s : State) (g : Flags) : (s.setFlags g).a = s.a := rfl
@[simp] theorem State.setFlags_b (s : State) (g : Flags) : (s.setFlags g).b = s.b := rfl
@[simp] theorem State.setFlags_c (s : State) (g : Flags) : (s.setFlags g).c = s.c := rfl
@[simp] theorem State.setFlags_d (s : State) (g : Flags) : (s.setFlags g).d = s.d := rfl
@[simp] theorem State.setFlags_e (s : State) (g : Flags) : (s.setFlags g).e = s.e := rfl
@[simp] theorem State.setFlags_h (s : State) (g : Flags) : (s.setFlags g).h = s.h := rfl
@[simp] theorem State.setFlags_l (s : State) (g : Flags) : (s.setFlags g).l = s.l := rfl
@[simp] theorem State.setFlags_f (s : State) (g : Flags) : (s.setFlags g).f = g := rfl
@[simp] theorem State.setFlags_pc (s : State) (g : Flags) : (s.setFlags g).pc = s.pc := rfl
@[simp] theorem State.setFlags_sp (s : State) (g : Flags) : (s.setFlags g).sp = s.sp := rfl
@[simp] theorem State.setFlags_latch (s : State) (g : Flags) : (s.setFlags g).latch = s.latch := rfl
@[simp] theorem State.setFlags_mem (s : State) (g : Flags) : (s.setFlags g).mem = s.mem := rfl
@[simp] theorem State.setFlags_report (s : State) (g : Flags) : (s.setFlags g).report = s.report := rfl
@[simp] theorem State.setFlags_bus (s : State) (g : Flags) : (s.setFlags g).bus = s.bus := rfl
@[simp] theorem State.setFlags_params (s : State) (g : Flags) : (s.setFlags g).params = s.params := rfl
@[simp] theorem State.setFlags_reads (s : State) (g : Flags) : (s.setFlags g).reads = s.reads := rfl

/-! ### The accumulator and the flags -/

@[simp] theorem State.setAcc_a (s : State) (r : ByteResult) : (s.setAcc r).a = r.val := rfl
@[simp] theorem State.setAcc_b (s : State) (r : ByteResult) : (s.setAcc r).b = s.b := rfl
@[simp] theorem State.setAcc_c (s : State) (r : ByteResult) : (s.setAcc r).c = s.c := rfl
@[simp] theorem State.setAcc_d (s : State) (r : ByteResult) : (s.setAcc r).d = s.d := rfl
@[simp] theorem State.setAcc_e (s : State) (r : ByteResult) : (s.setAcc r).e = s.e := rfl
@[simp] theorem State.setAcc_h (s : State) (r : ByteResult) : (s.setAcc r).h = s.h := rfl
@[simp] theorem State.setAcc_l (s : State) (r : ByteResult) : (s.setAcc r).l = s.l := rfl
@[simp] theorem State.setAcc_f (s : State) (r : ByteResult) : (s.setAcc r).f = r.flags := rfl
@[simp] theorem State.setAcc_pc (s : State) (r : ByteResult) : (s.setAcc r).pc = s.pc := rfl
@[simp] theorem State.setAcc_sp (s : State) (r : ByteResult) : (s.setAcc r).sp = s.sp := rfl
@[simp] theorem State.setAcc_latch (s : State) (r : ByteResult) : (s.setAcc r).latch = s.latch := rfl
@[simp] theorem State.setAcc_mem (s : State) (r : ByteResult) : (s.setAcc r).mem = s.mem := rfl
@[simp] theorem State.setAcc_report (s : State) (r : ByteResult) : (s.setAcc r).report = s.report := rfl
@[simp] theorem State.setAcc_bus (s : State) (r : ByteResult) : (s.setAcc r).bus = s.bus := rfl
@[simp] theorem State.setAcc_params (s : State) (r : ByteResult) : (s.setAcc r).params = s.params := rfl
@[simp] theorem State.setAcc_reads (s : State) (r : ByteResult) : (s.setAcc r).reads = s.reads := rfl

/-! ### The pair BC -/

@[simp] theorem State.setBc_a (s : State) (v : Word) : (s.setBc v).a = s.a := rfl
@[simp] theorem State.setBc_b (s : State) (v : Word) : (s.setBc v).b = hiByte v := rfl
@[simp] theorem State.setBc_c (s : State) (v : Word) : (s.setBc v).c = loByte v := rfl
@[simp] theorem State.setBc_d (s : State) (v : Word) : (s.setBc v).d = s.d := rfl
@[simp] theorem State.setBc_e (s : State) (v : Word) : (s.setBc v).e = s.e := rfl
@[simp] theorem State.setBc_h (s : State) (v : Word) : (s.setBc v).h = s.h := rfl
@[simp] theorem State.setBc_l (s : State) (v : Word) : (s.setBc v).l = s.l := rfl
@[simp] theorem State.setBc_f (s : State) (v : Word) : (s.setBc v).f = s.f := rfl
@[simp] theorem State.setBc_pc (s : State) (v : Word) : (s.setBc v).pc = s.pc := rfl
@[simp] theorem State.setBc_sp (s : State) (v : Word) : (s.setBc v).sp = s.sp := rfl
@[simp] theorem State.setBc_latch (s : State) (v : Word) : (s.setBc v).latch = s.latch := rfl
@[simp] theorem State.setBc_mem (s : State) (v : Word) : (s.setBc v).mem = s.mem := rfl
@[simp] theorem State.setBc_report (s : State) (v : Word) : (s.setBc v).report = s.report := rfl
@[simp] theorem State.setBc_bus (s : State) (v : Word) : (s.setBc v).bus = s.bus := rfl
@[simp] theorem State.setBc_params (s : State) (v : Word) : (s.setBc v).params = s.params := rfl
@[simp] theorem State.setBc_reads (s : State) (v : Word) : (s.setBc v).reads = s.reads := rfl

/-! ### The pair DE -/

@[simp] theorem State.setDe_a (s : State) (v : Word) : (s.setDe v).a = s.a := rfl
@[simp] theorem State.setDe_b (s : State) (v : Word) : (s.setDe v).b = s.b := rfl
@[simp] theorem State.setDe_c (s : State) (v : Word) : (s.setDe v).c = s.c := rfl
@[simp] theorem State.setDe_d (s : State) (v : Word) : (s.setDe v).d = hiByte v := rfl
@[simp] theorem State.setDe_e (s : State) (v : Word) : (s.setDe v).e = loByte v := rfl
@[simp] theorem State.setDe_h (s : State) (v : Word) : (s.setDe v).h = s.h := rfl
@[simp] theorem State.setDe_l (s : State) (v : Word) : (s.setDe v).l = s.l := rfl
@[simp] theorem State.setDe_f (s : State) (v : Word) : (s.setDe v).f = s.f := rfl
@[simp] theorem State.setDe_pc (s : State) (v : Word) : (s.setDe v).pc = s.pc := rfl
@[simp] theorem State.setDe_sp (s : State) (v : Word) : (s.setDe v).sp = s.sp := rfl
@[simp] theorem State.setDe_latch (s : State) (v : Word) : (s.setDe v).latch = s.latch := rfl
@[simp] theorem State.setDe_mem (s : State) (v : Word) : (s.setDe v).mem = s.mem := rfl
@[simp] theorem State.setDe_report (s : State) (v : Word) : (s.setDe v).report = s.report := rfl
@[simp] theorem State.setDe_bus (s : State) (v : Word) : (s.setDe v).bus = s.bus := rfl
@[simp] theorem State.setDe_params (s : State) (v : Word) : (s.setDe v).params = s.params := rfl
@[simp] theorem State.setDe_reads (s : State) (v : Word) : (s.setDe v).reads = s.reads := rfl

/-! ### The pair HL -/

@[simp] theorem State.setHl_a (s : State) (v : Word) : (s.setHl v).a = s.a := rfl
@[simp] theorem State.setHl_b (s : State) (v : Word) : (s.setHl v).b = s.b := rfl
@[simp] theorem State.setHl_c (s : State) (v : Word) : (s.setHl v).c = s.c := rfl
@[simp] theorem State.setHl_d (s : State) (v : Word) : (s.setHl v).d = s.d := rfl
@[simp] theorem State.setHl_e (s : State) (v : Word) : (s.setHl v).e = s.e := rfl
@[simp] theorem State.setHl_h (s : State) (v : Word) : (s.setHl v).h = hiByte v := rfl
@[simp] theorem State.setHl_l (s : State) (v : Word) : (s.setHl v).l = loByte v := rfl
@[simp] theorem State.setHl_f (s : State) (v : Word) : (s.setHl v).f = s.f := rfl
@[simp] theorem State.setHl_pc (s : State) (v : Word) : (s.setHl v).pc = s.pc := rfl
@[simp] theorem State.setHl_sp (s : State) (v : Word) : (s.setHl v).sp = s.sp := rfl
@[simp] theorem State.setHl_latch (s : State) (v : Word) : (s.setHl v).latch = s.latch := rfl
@[simp] theorem State.setHl_mem (s : State) (v : Word) : (s.setHl v).mem = s.mem := rfl
@[simp] theorem State.setHl_report (s : State) (v : Word) : (s.setHl v).report = s.report := rfl
@[simp] theorem State.setHl_bus (s : State) (v : Word) : (s.setHl v).bus = s.bus := rfl
@[simp] theorem State.setHl_params (s : State) (v : Word) : (s.setHl v).params = s.params := rfl
@[simp] theorem State.setHl_reads (s : State) (v : Word) : (s.setHl v).reads = s.reads := rfl

/-! ### The pair AF -/

@[simp] theorem State.setAf_a (s : State) (v : Word) : (s.setAf v).a = hiByte v := rfl
@[simp] theorem State.setAf_b (s : State) (v : Word) : (s.setAf v).b = s.b := rfl
@[simp] theorem State.setAf_c (s : State) (v : Word) : (s.setAf v).c = s.c := rfl
@[simp] theorem State.setAf_d (s : State) (v : Word) : (s.setAf v).d = s.d := rfl
@[simp] theorem State.setAf_e (s : State) (v : Word) : (s.setAf v).e = s.e := rfl
@[simp] theorem State.setAf_h (s : State) (v : Word) : (s.setAf v).h = s.h := rfl
@[simp] theorem State.setAf_l (s : State) (v : Word) : (s.setAf v).l = s.l := rfl
@[simp] theorem State.setAf_f (s : State) (v : Word) : (s.setAf v).f = flagsOfByte (loByte v) := rfl
@[simp] theorem State.setAf_pc (s : State) (v : Word) : (s.setAf v).pc = s.pc := rfl
@[simp] theorem State.setAf_sp (s : State) (v : Word) : (s.setAf v).sp = s.sp := rfl
@[simp] theorem State.setAf_latch (s : State) (v : Word) : (s.setAf v).latch = s.latch := rfl
@[simp] theorem State.setAf_mem (s : State) (v : Word) : (s.setAf v).mem = s.mem := rfl
@[simp] theorem State.setAf_report (s : State) (v : Word) : (s.setAf v).report = s.report := rfl
@[simp] theorem State.setAf_bus (s : State) (v : Word) : (s.setAf v).bus = s.bus := rfl
@[simp] theorem State.setAf_params (s : State) (v : Word) : (s.setAf v).params = s.params := rfl
@[simp] theorem State.setAf_reads (s : State) (v : Word) : (s.setAf v).reads = s.reads := rfl

/-! ### A register by its selector -/

@[simp] theorem State.setReg_f (s : State) (r : Reg8) (v : Byte) : (s.setReg r v).f = s.f := by cases r <;> rfl
@[simp] theorem State.setReg_pc (s : State) (r : Reg8) (v : Byte) : (s.setReg r v).pc = s.pc := by cases r <;> rfl
@[simp] theorem State.setReg_sp (s : State) (r : Reg8) (v : Byte) : (s.setReg r v).sp = s.sp := by cases r <;> rfl
@[simp] theorem State.setReg_latch (s : State) (r : Reg8) (v : Byte) : (s.setReg r v).latch = s.latch := by cases r <;> rfl
@[simp] theorem State.setReg_mem (s : State) (r : Reg8) (v : Byte) : (s.setReg r v).mem = s.mem := by cases r <;> rfl
@[simp] theorem State.setReg_report (s : State) (r : Reg8) (v : Byte) : (s.setReg r v).report = s.report := by cases r <;> rfl
@[simp] theorem State.setReg_bus (s : State) (r : Reg8) (v : Byte) : (s.setReg r v).bus = s.bus := by cases r <;> rfl
@[simp] theorem State.setReg_params (s : State) (r : Reg8) (v : Byte) : (s.setReg r v).params = s.params := by cases r <;> rfl
@[simp] theorem State.setReg_reads (s : State) (r : Reg8) (v : Byte) : (s.setReg r v).reads = s.reads := by cases r <;> rfl

/-! ### A pair by its selector -/

@[simp] theorem State.setRp_a (s : State) (p : Rp) (v : Word) : (s.setRp p v).a = s.a := by cases p <;> rfl
@[simp] theorem State.setRp_f (s : State) (p : Rp) (v : Word) : (s.setRp p v).f = s.f := by cases p <;> rfl
@[simp] theorem State.setRp_pc (s : State) (p : Rp) (v : Word) : (s.setRp p v).pc = s.pc := by cases p <;> rfl
@[simp] theorem State.setRp_latch (s : State) (p : Rp) (v : Word) : (s.setRp p v).latch = s.latch := by cases p <;> rfl
@[simp] theorem State.setRp_mem (s : State) (p : Rp) (v : Word) : (s.setRp p v).mem = s.mem := by cases p <;> rfl
@[simp] theorem State.setRp_report (s : State) (p : Rp) (v : Word) : (s.setRp p v).report = s.report := by cases p <;> rfl
@[simp] theorem State.setRp_bus (s : State) (p : Rp) (v : Word) : (s.setRp p v).bus = s.bus := by cases p <;> rfl
@[simp] theorem State.setRp_params (s : State) (p : Rp) (v : Word) : (s.setRp p v).params = s.params := by cases p <;> rfl
@[simp] theorem State.setRp_reads (s : State) (p : Rp) (v : Word) : (s.setRp p v).reads = s.reads := by cases p <;> rfl

/-! ### A stack pair by its selector -/

@[simp] theorem State.setRp2_pc (s : State) (q : Rp2) (v : Word) : (s.setRp2 q v).pc = s.pc := by cases q <;> rfl
@[simp] theorem State.setRp2_sp (s : State) (q : Rp2) (v : Word) : (s.setRp2 q v).sp = s.sp := by cases q <;> rfl
@[simp] theorem State.setRp2_latch (s : State) (q : Rp2) (v : Word) : (s.setRp2 q v).latch = s.latch := by cases q <;> rfl
@[simp] theorem State.setRp2_mem (s : State) (q : Rp2) (v : Word) : (s.setRp2 q v).mem = s.mem := by cases q <;> rfl
@[simp] theorem State.setRp2_report (s : State) (q : Rp2) (v : Word) : (s.setRp2 q v).report = s.report := by cases q <;> rfl
@[simp] theorem State.setRp2_bus (s : State) (q : Rp2) (v : Word) : (s.setRp2 q v).bus = s.bus := by cases q <;> rfl
@[simp] theorem State.setRp2_params (s : State) (q : Rp2) (v : Word) : (s.setRp2 q v).params = s.params := by cases q <;> rfl
@[simp] theorem State.setRp2_reads (s : State) (q : Rp2) (v : Word) : (s.setRp2 q v).reads = s.reads := by cases q <;> rfl

/-! ### A register read back -/

@[simp] theorem State.setReg_reg_same (s : State) (r : Reg8) (v : Byte) : (s.setReg r v).reg r = v := by
  cases r <;> rfl

theorem State.setReg_reg_other (s : State) {r q : Reg8} (v : Byte) (h : q ≠ r) : (s.setReg r v).reg q = s.reg q := by
  cases r <;> cases q <;> first | rfl | exact absurd rfl h

@[simp] theorem State.setReg_reg_self (s : State) (r : Reg8) : s.setReg r (s.reg r) = s := by
  cases r <;> rfl

/-! ### Registers and memory bytes across the other updates -/

@[simp] theorem State.poke_reg (s : State) (x : Word) (v : Byte) (q : Reg8) : (s.poke x v).reg q = s.reg q := by cases q <;> rfl
@[simp] theorem State.poke_hl (s : State) (x : Word) (v : Byte) : (s.poke x v).hl = s.hl := rfl
@[simp] theorem State.poke_bc (s : State) (x : Word) (v : Byte) : (s.poke x v).bc = s.bc := rfl
@[simp] theorem State.poke_de (s : State) (x : Word) (v : Byte) : (s.poke x v).de = s.de := rfl
@[simp] theorem State.poke_af (s : State) (x : Word) (v : Byte) : (s.poke x v).af = s.af := rfl
@[simp] theorem State.poke_rp (s : State) (x : Word) (v : Byte) (p : Rp) : (s.poke x v).rp p = s.rp p := by cases p <;> rfl
@[simp] theorem State.poke_rp2 (s : State) (x : Word) (v : Byte) (q : Rp2) : (s.poke x v).rp2 q = s.rp2 q := by cases q <;> rfl
@[simp] theorem State.saw_reg (s : State) (ts : List Txn) (q : Reg8) : (s.saw ts).reg q = s.reg q := by cases q <;> rfl
@[simp] theorem State.saw_byteAt (s : State) (ts : List Txn) (y : Word) : (s.saw ts).byteAt y = s.byteAt y := rfl
@[simp] theorem State.saw_hl (s : State) (ts : List Txn) : (s.saw ts).hl = s.hl := rfl
@[simp] theorem State.saw_bc (s : State) (ts : List Txn) : (s.saw ts).bc = s.bc := rfl
@[simp] theorem State.saw_de (s : State) (ts : List Txn) : (s.saw ts).de = s.de := rfl
@[simp] theorem State.saw_af (s : State) (ts : List Txn) : (s.saw ts).af = s.af := rfl
@[simp] theorem State.saw_rp (s : State) (ts : List Txn) (p : Rp) : (s.saw ts).rp p = s.rp p := by cases p <;> rfl
@[simp] theorem State.saw_rp2 (s : State) (ts : List Txn) (q : Rp2) : (s.saw ts).rp2 q = s.rp2 q := by cases q <;> rfl
@[simp] theorem State.fetched_reg (s : State) (ts : List Txn) (q : Reg8) : (s.fetched ts).reg q = s.reg q := by cases q <;> rfl
@[simp] theorem State.fetched_byteAt (s : State) (ts : List Txn) (y : Word) : (s.fetched ts).byteAt y = s.byteAt y := rfl
@[simp] theorem State.fetched_hl (s : State) (ts : List Txn) : (s.fetched ts).hl = s.hl := rfl
@[simp] theorem State.fetched_bc (s : State) (ts : List Txn) : (s.fetched ts).bc = s.bc := rfl
@[simp] theorem State.fetched_de (s : State) (ts : List Txn) : (s.fetched ts).de = s.de := rfl
@[simp] theorem State.fetched_af (s : State) (ts : List Txn) : (s.fetched ts).af = s.af := rfl
@[simp] theorem State.fetched_rp (s : State) (ts : List Txn) (p : Rp) : (s.fetched ts).rp p = s.rp p := by cases p <;> rfl
@[simp] theorem State.fetched_rp2 (s : State) (ts : List Txn) (q : Rp2) : (s.fetched ts).rp2 q = s.rp2 q := by cases q <;> rfl
@[simp] theorem State.ended_reg (s : State) (x : Word) (n : Nat) (q : Reg8) : (s.ended x n).reg q = s.reg q := by cases q <;> rfl
@[simp] theorem State.ended_byteAt (s : State) (x : Word) (n : Nat) (y : Word) : (s.ended x n).byteAt y = s.byteAt y := rfl
@[simp] theorem State.ended_hl (s : State) (x : Word) (n : Nat) : (s.ended x n).hl = s.hl := rfl
@[simp] theorem State.ended_bc (s : State) (x : Word) (n : Nat) : (s.ended x n).bc = s.bc := rfl
@[simp] theorem State.ended_de (s : State) (x : Word) (n : Nat) : (s.ended x n).de = s.de := rfl
@[simp] theorem State.ended_af (s : State) (x : Word) (n : Nat) : (s.ended x n).af = s.af := rfl
@[simp] theorem State.ended_rp (s : State) (x : Word) (n : Nat) (p : Rp) : (s.ended x n).rp p = s.rp p := by cases p <;> rfl
@[simp] theorem State.ended_rp2 (s : State) (x : Word) (n : Nat) (q : Rp2) : (s.ended x n).rp2 q = s.rp2 q := by cases q <;> rfl
@[simp] theorem State.failed_reg (s : State) (r : FaultRecord) (q : Reg8) : (s.failed r).reg q = s.reg q := by cases q <;> rfl
@[simp] theorem State.failed_byteAt (s : State) (r : FaultRecord) (y : Word) : (s.failed r).byteAt y = s.byteAt y := rfl
@[simp] theorem State.failed_hl (s : State) (r : FaultRecord) : (s.failed r).hl = s.hl := rfl
@[simp] theorem State.failed_bc (s : State) (r : FaultRecord) : (s.failed r).bc = s.bc := rfl
@[simp] theorem State.failed_de (s : State) (r : FaultRecord) : (s.failed r).de = s.de := rfl
@[simp] theorem State.failed_af (s : State) (r : FaultRecord) : (s.failed r).af = s.af := rfl
@[simp] theorem State.failed_rp (s : State) (r : FaultRecord) (p : Rp) : (s.failed r).rp p = s.rp p := by cases p <;> rfl
@[simp] theorem State.failed_rp2 (s : State) (r : FaultRecord) (q : Rp2) : (s.failed r).rp2 q = s.rp2 q := by cases q <;> rfl
@[simp] theorem State.setFlags_reg (s : State) (g : Flags) (q : Reg8) : (s.setFlags g).reg q = s.reg q := by cases q <;> rfl
@[simp] theorem State.setFlags_byteAt (s : State) (g : Flags) (y : Word) : (s.setFlags g).byteAt y = s.byteAt y := rfl
@[simp] theorem State.setFlags_hl (s : State) (g : Flags) : (s.setFlags g).hl = s.hl := rfl
@[simp] theorem State.setFlags_bc (s : State) (g : Flags) : (s.setFlags g).bc = s.bc := rfl
@[simp] theorem State.setFlags_de (s : State) (g : Flags) : (s.setFlags g).de = s.de := rfl
@[simp] theorem State.setFlags_rp (s : State) (g : Flags) (p : Rp) : (s.setFlags g).rp p = s.rp p := by cases p <;> rfl
@[simp] theorem State.setAcc_byteAt (s : State) (r : ByteResult) (y : Word) : (s.setAcc r).byteAt y = s.byteAt y := rfl
@[simp] theorem State.setAcc_hl (s : State) (r : ByteResult) : (s.setAcc r).hl = s.hl := rfl
@[simp] theorem State.setAcc_bc (s : State) (r : ByteResult) : (s.setAcc r).bc = s.bc := rfl
@[simp] theorem State.setAcc_de (s : State) (r : ByteResult) : (s.setAcc r).de = s.de := rfl
@[simp] theorem State.setAcc_rp (s : State) (r : ByteResult) (p : Rp) : (s.setAcc r).rp p = s.rp p := by cases p <;> rfl
@[simp] theorem State.setHl_byteAt (s : State) (v : Word) (y : Word) : (s.setHl v).byteAt y = s.byteAt y := rfl
@[simp] theorem State.setHl_bc (s : State) (v : Word) : (s.setHl v).bc = s.bc := rfl
@[simp] theorem State.setHl_de (s : State) (v : Word) : (s.setHl v).de = s.de := rfl
@[simp] theorem State.setHl_af (s : State) (v : Word) : (s.setHl v).af = s.af := rfl
@[simp] theorem State.setBc_byteAt (s : State) (v : Word) (y : Word) : (s.setBc v).byteAt y = s.byteAt y := rfl
@[simp] theorem State.setBc_hl (s : State) (v : Word) : (s.setBc v).hl = s.hl := rfl
@[simp] theorem State.setBc_de (s : State) (v : Word) : (s.setBc v).de = s.de := rfl
@[simp] theorem State.setBc_af (s : State) (v : Word) : (s.setBc v).af = s.af := rfl
@[simp] theorem State.setDe_byteAt (s : State) (v : Word) (y : Word) : (s.setDe v).byteAt y = s.byteAt y := rfl
@[simp] theorem State.setDe_bc (s : State) (v : Word) : (s.setDe v).bc = s.bc := rfl
@[simp] theorem State.setDe_hl (s : State) (v : Word) : (s.setDe v).hl = s.hl := rfl
@[simp] theorem State.setDe_af (s : State) (v : Word) : (s.setDe v).af = s.af := rfl
@[simp] theorem State.setAf_byteAt (s : State) (v : Word) (y : Word) : (s.setAf v).byteAt y = s.byteAt y := rfl
@[simp] theorem State.setAf_bc (s : State) (v : Word) : (s.setAf v).bc = s.bc := rfl
@[simp] theorem State.setAf_hl (s : State) (v : Word) : (s.setAf v).hl = s.hl := rfl
@[simp] theorem State.setAf_de (s : State) (v : Word) : (s.setAf v).de = s.de := rfl
@[simp] theorem State.setAf_rp (s : State) (v : Word) (p : Rp) : (s.setAf v).rp p = s.rp p := by cases p <;> rfl
@[simp] theorem State.setReg_byteAt (s : State) (r : Reg8) (v : Byte) (y : Word) : (s.setReg r v).byteAt y = s.byteAt y := by cases r <;> rfl
@[simp] theorem State.setRp_byteAt (s : State) (p : Rp) (v : Word) (y : Word) : (s.setRp p v).byteAt y = s.byteAt y := by cases p <;> rfl
@[simp] theorem State.setRp2_byteAt (s : State) (q : Rp2) (v : Word) (y : Word) : (s.setRp2 q v).byteAt y = s.byteAt y := by cases q <;> rfl

/-! ### Updates combine -/

@[simp] theorem busReads_nil : busReads [] = 0 := rfl
@[simp] theorem busReads_read (x : Word) (v : Byte) (ts : List Txn) : busReads (.read x v :: ts) = busReads ts + 1 := rfl
@[simp] theorem busReads_write (x : Word) (v : Byte) (ts : List Txn) : busReads (.write x v :: ts) = busReads ts := rfl

@[simp] theorem busReads_append : ∀ ts us : List Txn, busReads (ts ++ us) = busReads ts + busReads us
  | [], us => by simp
  | .read x v :: ts, us => by simp [busReads_append ts us]; omega
  | .write x v :: ts, us => by simp [busReads_append ts us]

@[simp] theorem State.saw_nil (s : State) : s.saw [] = s := by
  simp [State.saw]

@[simp] theorem State.saw_saw (s : State) (ts us : List Txn) : (s.saw ts).saw us = s.saw (ts ++ us) := by
  simp [State.saw, Nat.add_assoc]

@[simp] theorem State.fetched_saw (s : State) (ts us : List Txn) : (s.fetched ts).saw us = s.fetched (ts ++ us) := by
  simp [State.saw, State.fetched, Nat.add_assoc]

/-- A byte changed after a transaction was recorded is a transaction recorded after the change. -/
@[simp] theorem State.saw_poke (s : State) (ts : List Txn) (x : Word) (v : Byte) :
    (s.saw ts).poke x v = (s.poke x v).saw ts := rfl

@[simp] theorem State.fetched_poke (s : State) (ts : List Txn) (x : Word) (v : Byte) :
    (s.fetched ts).poke x v = (s.poke x v).fetched ts := rfl

/-! ### What the next reads are answered with -/

/-- The answers depend on the reading, the number of reads made and memory alone. -/
theorem State.answer_congr {s t : State} (hp : t.params = s.params) (hr : t.reads = s.reads) (hm : t.mem = s.mem)
    (k : Nat) (y : Word) : t.answer k y = s.answer k y := by
  simp only [State.answer, State.byteAt, hp, hr, hm]

/-- Under the closed reading, the byte memory holds (R63 (a)). -/
theorem State.answer_of_closed {s : State} (h : s.params.memory = .closed) (k : Nat) (y : Word) :
    s.answer k y = s.byteAt y := by rw [State.answer, h]

/-- Under the open reading, the environment's answer (R63 (b)). -/
theorem State.answer_of_opened {s : State} {l : List (Nat × Byte)} (h : s.params.memory = .opened l) (k : Nat)
    (y : Word) : s.answer k y = oracleAt l (s.reads + k) := by rw [State.answer, h]

/-- Reads already made shift the numbers of the next ones. -/
@[simp] theorem State.saw_answer (s : State) (ts : List Txn) (k : Nat) (y : Word) :
    (s.saw ts).answer k y = s.answer (busReads ts + k) y := by
  simp [State.answer, Nat.add_assoc]

@[simp] theorem State.fetched_answer (s : State) (ts : List Txn) (k : Nat) (y : Word) :
    (s.fetched ts).answer k y = s.answer (busReads ts + k) y := by
  simp [State.answer, Nat.add_assoc]

@[simp] theorem State.ended_answer (s : State) (x : Word) (n : Nat) (k : Nat) (y : Word) :
    (s.ended x n).answer k y = s.answer k y := rfl
@[simp] theorem State.failed_answer (s : State) (r : FaultRecord) (k : Nat) (y : Word) :
    (s.failed r).answer k y = s.answer k y := rfl
@[simp] theorem State.setFlags_answer (s : State) (g : Flags) (k : Nat) (y : Word) :
    (s.setFlags g).answer k y = s.answer k y := rfl
@[simp] theorem State.setAcc_answer (s : State) (r : ByteResult) (k : Nat) (y : Word) :
    (s.setAcc r).answer k y = s.answer k y := rfl
@[simp] theorem State.setBc_answer (s : State) (v : Word) (k : Nat) (y : Word) :
    (s.setBc v).answer k y = s.answer k y := rfl
@[simp] theorem State.setDe_answer (s : State) (v : Word) (k : Nat) (y : Word) :
    (s.setDe v).answer k y = s.answer k y := rfl
@[simp] theorem State.setHl_answer (s : State) (v : Word) (k : Nat) (y : Word) :
    (s.setHl v).answer k y = s.answer k y := rfl
@[simp] theorem State.setAf_answer (s : State) (v : Word) (k : Nat) (y : Word) :
    (s.setAf v).answer k y = s.answer k y := rfl
@[simp] theorem State.setReg_answer (s : State) (r : Reg8) (v : Byte) (k : Nat) (y : Word) :
    (s.setReg r v).answer k y = s.answer k y := by cases r <;> rfl
@[simp] theorem State.setRp_answer (s : State) (p : Rp) (v : Word) (k : Nat) (y : Word) :
    (s.setRp p v).answer k y = s.answer k y := by cases p <;> rfl
@[simp] theorem State.setRp2_answer (s : State) (q : Rp2) (v : Word) (k : Nat) (y : Word) :
    (s.setRp2 q v).answer k y = s.answer k y := by cases q <;> rfl

/-! ### A launch state -/

@[simp] theorem State.launch_pc (r : ResetRegs) (p : Params) (m : Memory) : (State.launch r p m).pc = p.resetPc := rfl
@[simp] theorem State.launch_latch (r : ResetRegs) (p : Params) (m : Memory) : (State.launch r p m).latch = none := rfl
@[simp] theorem State.launch_mem (r : ResetRegs) (p : Params) (m : Memory) : (State.launch r p m).mem = m := rfl
@[simp] theorem State.launch_report (r : ResetRegs) (p : Params) (m : Memory) : (State.launch r p m).report = .idle := rfl
@[simp] theorem State.launch_params (r : ResetRegs) (p : Params) (m : Memory) : (State.launch r p m).params = p := rfl
@[simp] theorem State.launch_reads (r : ResetRegs) (p : Params) (m : Memory) : (State.launch r p m).reads = 0 := rfl

end Sys2Proof.Machine
end

