-- ==== Sys2Proof/Laws/Memory.lean ====
section
/-! SUPPORT. Memory: what a read gives after a write, and that every operation keeps the canonical form. -/

namespace Sys2Proof.Machine

/-! ### A list with canonical entries from `lo` on -/

theorem Memory.wfFrom_cons {lo k : Nat} {v : Byte} {m : Memory} :
    Memory.wfFrom lo ((k, v) :: m) = true ↔
      lo ≤ k ∧ k < 65536 ∧ v ≠ Memory.initByte ∧ Memory.wfFrom (k + 1) m = true := by
  simp [Memory.wfFrom, and_assoc]

/-- The entries may start later than they have to. -/
theorem Memory.wfFrom_mono {lo lo' : Nat} (hle : lo' ≤ lo) :
    ∀ {m : Memory}, Memory.wfFrom lo m = true → Memory.wfFrom lo' m = true
  | [], _ => rfl
  | _ :: _, h => by
    rw [Memory.wfFrom_cons] at h ⊢
    exact ⟨hle.trans h.1, h.2⟩

/-- Below its first possible entry a memory reads as the initial byte. -/
theorem Memory.read_below {lo a : Nat} (ha : a < lo) :
    ∀ {m : Memory}, Memory.wfFrom lo m = true → Memory.read m a = Memory.initByte
  | [], _ => rfl
  | (k, v) :: m, h => by
    rw [Memory.wfFrom_cons] at h
    have hne : k ≠ a := by omega
    simp only [Memory.read, if_neg hne]
    exact Memory.read_below (by omega) h.2.2.2

/-! ### Writing -/

theorem Memory.wfFrom_write {lo a : Nat} (v : Byte) (hlo : lo ≤ a) (ha : a < 65536) :
    ∀ {m : Memory}, Memory.wfFrom lo m = true → Memory.wfFrom lo (Memory.write m a v) = true
  | [], _ => by
    unfold Memory.write
    split
    · rfl
    · exact Memory.wfFrom_cons.2 ⟨hlo, ha, ‹_›, rfl⟩
  | (k, w) :: m, h => by
    have hc := Memory.wfFrom_cons.1 h
    unfold Memory.write
    split
    · split
      · exact h
      · exact Memory.wfFrom_cons.2 ⟨hlo, ha, ‹_›, Memory.wfFrom_cons.2 ⟨by omega, hc.2⟩⟩
    · split
      · subst a
        split
        · exact Memory.wfFrom_mono (by omega) hc.2.2.2
        · exact Memory.wfFrom_cons.2 ⟨hc.1, hc.2.1, ‹_›, hc.2.2.2⟩
      · exact Memory.wfFrom_cons.2
          ⟨hc.1, hc.2.1, hc.2.2.1, Memory.wfFrom_write v (by omega) ha hc.2.2.2⟩

/-- A write keeps the canonical form. -/
theorem Memory.wf_write {m : Memory} (a : Word) (v : Byte) (h : Memory.wf m = true) :
    Memory.wf (Memory.write m a.toNat v) = true :=
  Memory.wfFrom_write v (Nat.zero_le _) a.isLt h

/-- A write leaves every other address alone, whatever the memory's form. -/
theorem Memory.read_write_other {a x : Nat} (v : Byte) (hx : x ≠ a) :
    ∀ m : Memory, Memory.read (Memory.write m a v) x = Memory.read m x
  | [] => by
    unfold Memory.write
    split
    · rfl
    · simp [Memory.read, hx.symm]
  | (k, w) :: m => by
    have ih := Memory.read_write_other v hx m
    unfold Memory.write
    split
    · split <;> simp [Memory.read, hx.symm]
    · split
      · subst a
        split <;> simp [Memory.read, hx.symm]
      · simp only [Memory.read, ih]

/-- In canonical memory a read at the address of a write gives the byte written. -/
theorem Memory.read_write_same {lo a : Nat} (v : Byte) :
    ∀ {m : Memory}, Memory.wfFrom lo m = true → Memory.read (Memory.write m a v) a = v
  | [], _ => by
    by_cases hv : v = Memory.initByte <;> simp [Memory.write, Memory.read, hv]
  | (k, w) :: m, h => by
    have hc := Memory.wfFrom_cons.1 h
    have ih := Memory.read_write_same (a := a) v hc.2.2.2
    unfold Memory.write
    split
    · split
      · subst v
        exact Memory.read_below (lo := k) ‹_› (Memory.wfFrom_cons.2 ⟨le_refl k, hc.2⟩)
      · simp [Memory.read]
    · split
      · subst a
        split
        · subst v
          exact Memory.read_below (lo := k + 1) (Nat.lt_succ_self k) hc.2.2.2
        · simp [Memory.read]
      · have : k ≠ a := fun e => ‹¬a = k› e.symm
        simp only [Memory.read, if_neg this, ih]

/-! ### The same of a state's bytes -/

/-- A byte changed leaves every other byte alone. -/
theorem State.poke_byteAt_other (s : State) {x y : Word} (v : Byte) (h : y ≠ x) :
    (s.poke x v).byteAt y = s.byteAt y :=
  Memory.read_write_other v (fun e => h (BitVec.eq_of_toNat_eq e)) s.mem

/-- In canonical memory a byte changed reads back. -/
theorem State.poke_byteAt_same (s : State) (x : Word) (v : Byte) (h : Memory.wf s.mem = true) :
    (s.poke x v).byteAt x = v :=
  Memory.read_write_same v h

/-- A byte changed keeps the canonical form. -/
theorem State.poke_wf (s : State) (x : Word) (v : Byte) (h : Memory.wf s.mem = true) :
    Memory.wf (s.poke x v).mem = true :=
  Memory.wf_write x v h

/-- What `replay` does keeps the canonical form. -/
theorem replay_wf : ∀ (ts : List Txn) {m : Memory}, Memory.wf m = true → Memory.wf (replay ts m) = true
  | [], _, h => h
  | .read _ _ :: ts, _, h => replay_wf ts h
  | .write a v :: ts, _, h => replay_wf ts (Memory.wf_write a v h)

/-- Placing a word for the next step keeps the canonical form. -/
theorem State.withFetchWord_wf (s : State) (nbits w : Nat) (h : Memory.wf s.mem = true) :
    Memory.wf (s.withFetchWord nbits w).mem = true := by
  show Memory.wf (placeBytes s _).mem = true
  unfold placeBytes
  split
  · exact State.poke_wf _ _ _ (State.poke_wf _ _ _ (State.poke_wf _ _ _ h))
  · exact h

/-- Under the open reading, the bytes of a placed word are the environment's next three answers. -/
theorem State.placeBytes_answer {s : State} {l : List (Nat × Byte)} (h : s.params.memory = .opened l) (w k : Nat)
    (hk : k < 3) (y : Word) : (placeBytes s w).answer k y = tableByte w k := by
  have e : placeBytes s w = { s with params := { s.params with
      memory := .opened ([(s.reads, tableByte w 0), (s.reads + 1, tableByte w 1), (s.reads + 2, tableByte w 2)] ++ l) } } := by
    rw [placeBytes, h]
  rw [e]
  obtain rfl | rfl | rfl : k = 0 ∨ k = 1 ∨ k = 2 := by omega
  all_goals simp [State.answer, oracleAt]

/-- Reset memory lists nothing, so it is canonical. -/
theorem State.reset_wf : Memory.wf State.reset.mem = true := rfl

end Sys2Proof.Machine
end

