-- ==== Sys2Proof/Laws/Operands.lean ====
section
/-! SUPPORT. What the operand forms and the flag computations are, in bit-vector and integer terms. -/

namespace Sys2Proof.Machine

/-! ### Bytes of a word -/

theorem hiByte_eq (v : Word) : hiByte v = v.extractLsb' 8 8 := by
  apply BitVec.eq_of_toNat_eq
  simp [hiByte, Nat.shiftRight_eq_div_pow]

theorem loByte_eq (v : Word) : loByte v = v.extractLsb' 0 8 := by
  apply BitVec.eq_of_toNat_eq
  simp [loByte]

theorem mkWord_eq (hi lo : Byte) : mkWord hi lo = hi ++ lo := by
  apply BitVec.eq_of_toNat_eq
  have h1 := hi.isLt
  have h2 := lo.isLt
  have : hi.toNat <<< 8 ||| lo.toNat = hi.toNat * 2 ^ 8 + lo.toNat := by
    rw [Nat.shiftLeft_eq, Nat.mul_comm, ← Nat.two_pow_add_eq_or_of_lt (by omega)]
  simp only [mkWord, BitVec.toNat_ofNat, BitVec.toNat_append, this]
  omega

@[simp] theorem hiByte_mkWord (hi lo : Byte) : hiByte (mkWord hi lo) = hi := by
  apply BitVec.eq_of_toNat_eq
  have h1 := hi.isLt
  have h2 := lo.isLt
  simp only [hiByte, mkWord, BitVec.toNat_ofNat]
  omega

@[simp] theorem loByte_mkWord (hi lo : Byte) : loByte (mkWord hi lo) = lo := by
  apply BitVec.eq_of_toNat_eq
  have h1 := hi.isLt
  have h2 := lo.isLt
  simp only [loByte, mkWord, BitVec.toNat_ofNat]
  omega

@[simp] theorem mkWord_hiByte_loByte (v : Word) : mkWord (hiByte v) (loByte v) = v := by
  apply BitVec.eq_of_toNat_eq
  have h := v.isLt
  simp only [hiByte, loByte, mkWord, BitVec.toNat_ofNat]
  omega

/-! ### Addresses -/

theorem sext16_eq (e : Byte) : sext16 e = e.signExtend 16 := by
  revert e; decide

/-- A displacement added to a word is the integer sum, reduced modulo 65536. -/
theorem add_sext16_eq (v : Word) (e : Byte) :
    v + sext16 e = BitVec.ofInt 16 (((v.toNat : Int) + e.toInt) % 65536) := by
  have he := e.isLt
  have hv := v.isLt
  apply BitVec.eq_of_toNat_eq
  unfold sext16
  rw [BitVec.toInt_eq_toNat_cond]
  split <;> split <;> first | omega | (simp [BitVec.toNat_ofInt]; omega)

/-- The target of a relative jump is `pc + 2` plus the signed displacement, modulo 65536. -/
theorem relTarget_eq (pc : Word) (e : Byte) :
    relTarget pc e = BitVec.ofInt 16 (((pc.toNat : Int) + 2 + e.toInt) % 65536) := by
  have hp := pc.isLt
  unfold relTarget
  rw [add_sext16_eq]
  congr 1
  rw [BitVec.toNat_add, show (2 : Word).toNat = 2 from rfl]
  omega

/-! ### The flags byte -/

theorem flagsToByte_getLsbD (f : Flags) (k : Nat) :
    (flagsToByte f).getLsbD k =
      if k = 7 then f.z else if k = 6 then f.n else if k = 5 then f.h else if k = 4 then f.c else false := by
  have hk : ∀ k < 8, (flagsToByte f).getLsbD k =
      if k = 7 then f.z else if k = 6 then f.n else if k = 5 then f.h else if k = 4 then f.c else false := by
    rcases f with ⟨_ | _, _ | _, _ | _, _ | _⟩ <;> decide
  by_cases h : k < 8
  · exact hk k h
  · rw [BitVec.getLsbD_of_ge _ _ (by omega)]
    simp (disch := omega) only [if_neg]

@[simp] theorem flagsOfByte_flagsToByte (f : Flags) : flagsOfByte (flagsToByte f) = f := by
  rcases f with ⟨_ | _, _ | _, _ | _, _ | _⟩ <;> rfl

/-- A byte written to the flags register reads back without its low nibble. -/
theorem flagsToByte_flagsOfByte (v : Byte) : flagsToByte (flagsOfByte v) = v &&& 0xF0 := by
  revert v; decide

/-! ### The 8-bit operations -/

@[simp] theorem and8_val (a v : Byte) : (and8 a v).val = a &&& v := rfl
@[simp] theorem xor8_val (a v : Byte) : (xor8 a v).val = a ^^^ v := rfl
@[simp] theorem or8_val (a v : Byte) : (or8 a v).val = a ||| v := rfl
@[simp] theorem and8_flags (a v : Byte) : (and8 a v).flags = ⟨(a &&& v) == 0, false, true, false⟩ := rfl
@[simp] theorem xor8_flags (a v : Byte) : (xor8 a v).flags = ⟨(a ^^^ v) == 0, false, false, false⟩ := rfl
@[simp] theorem or8_flags (a v : Byte) : (or8 a v).flags = ⟨(a ||| v) == 0, false, false, false⟩ := rfl
@[simp] theorem inc8_val (v : Byte) (f : Flags) : (inc8 v f).val = v + 1 := rfl
@[simp] theorem inc8_flags (v : Byte) (f : Flags) :
    (inc8 v f).flags = ⟨v + 1 == 0, false, decide (v.toNat % 16 = 15), f.c⟩ := rfl
@[simp] theorem dec8_val (v : Byte) (f : Flags) : (dec8 v f).val = v - 1 := rfl
@[simp] theorem dec8_flags (v : Byte) (f : Flags) :
    (dec8 v f).flags = ⟨v - 1 == 0, true, decide (v.toNat % 16 = 0), f.c⟩ := rfl
@[simp] theorem shifted_val (v : Byte) (c : Bool) : (shifted v c).val = v := rfl
@[simp] theorem shifted_flags (v : Byte) (c : Bool) : (shifted v c).flags = ⟨v == 0, false, false, c⟩ := rfl
@[simp] theorem withoutZero_flags (r : ByteResult) :
    (withoutZero r).flags = ⟨false, r.flags.n, r.flags.h, r.flags.c⟩ := rfl
@[simp] theorem daa8_val (a : Byte) (f : Flags) : (daa8 a f).val = a + daaAdjust a f := rfl
@[simp] theorem daa8_n (a : Byte) (f : Flags) : (daa8 a f).flags.n = f.n := rfl
@[simp] theorem bitFlags_c (i : Fin 8) (v : Byte) (f : Flags) : (bitFlags i v f).c = f.c := rfl

theorem add8_val (a v : Byte) (cin : Bool) :
    (add8 a v cin).val = BitVec.ofNat 8 (a.toNat + v.toNat + cin.toNat) := rfl

/-- The exact difference, narrowed, is the difference the operation gives. -/
theorem sub8_val (a v : Byte) (bin : Bool) :
    (sub8 a v bin).val = BitVec.ofInt 8 ((a.toNat : Int) - v.toNat - bin.toNat) := by
  have ha := a.isLt
  have hv := v.isLt
  apply BitVec.eq_of_toNat_eq
  cases bin <;> simp [sub8, bit8, BitVec.toNat_sub, BitVec.toNat_ofInt] <;> omega

/-- `sub8` borrows exactly when the exact difference is negative. -/
theorem sub8_c (a v : Byte) (bin : Bool) :
    (sub8 a v bin).flags.c = decide ((a.toNat : Int) - v.toNat - bin.toNat < 0) := by
  simp only [sub8, decide_eq_decide]
  omega

/-- `RES` and `SET` change the one bit. -/
theorem resBit_getLsbD (i : Fin 8) (v : Byte) (k : Nat) (hk : k < 8) :
    (resBit i v).getLsbD k = if k = i.val then false else v.getLsbD k := by
  have hi := i.isLt
  interval_cases k <;> fin_cases i <;> simp [resBit]

theorem setBit_getLsbD (i : Fin 8) (v : Byte) (k : Nat) (hk : k < 8) :
    (setBit i v).getLsbD k = if k = i.val then true else v.getLsbD k := by
  have hi := i.isLt
  interval_cases k <;> fin_cases i <;> simp [setBit]

end Sys2Proof.Machine
end

