-- ==== Sys2Proof/Laws/Ops.lean ====
section
/-! SUPPORT. One lemma per shared operation of Machine/Ops.lean and of the families, saying once everything it does. The
normal form is: byte changes (`poke`), then recorded transactions (`saw`), then registers, then the end of the step. -/

namespace Sys2Proof.Machine

/-! ### Bus operations -/

@[simp] theorem State.memRead_eq (s : State) (x : Word) :
    s.memRead x = (s.answer 0 x, s.saw [.read x (s.answer 0 x)]) := rfl

@[simp] theorem State.memWrite_eq (s : State) (x : Word) (v : Byte) :
    s.memWrite x v = (s.poke x v).saw [.write x v] := rfl

@[simp] theorem State.read16_eq (s : State) (x : Word) :
    s.read16 x = (mkWord (s.answer 1 (x + 1)) (s.answer 0 x),
      s.saw [.read x (s.answer 0 x), .read (x + 1) (s.answer 1 (x + 1))]) := by
  simp [State.read16]

@[simp] theorem State.imm8_eq (s : State) :
    s.imm8 = (s.answer 0 (s.pc + 1), s.saw [.read (s.pc + 1) (s.answer 0 (s.pc + 1))]) := State.memRead_eq s _

theorem pc_add_one_add_one (x : Word) : x + 1 + 1 = x + 2 := by
  rw [BitVec.add_assoc]; rfl

@[simp] theorem State.imm16_eq (s : State) :
    s.imm16 = (mkWord (s.answer 1 (s.pc + 2)) (s.answer 0 (s.pc + 1)),
      s.saw [.read (s.pc + 1) (s.answer 0 (s.pc + 1)), .read (s.pc + 2) (s.answer 1 (s.pc + 2))]) := by
  rw [State.imm16, State.read16_eq, pc_add_one_add_one]

@[simp] theorem State.push16_eq (s : State) (v : Word) :
    s.push16 v =
      { ((s.poke (s.sp - 1) (hiByte v)).poke (s.sp - 2) (loByte v)).saw
          [.write (s.sp - 1) (hiByte v), .write (s.sp - 2) (loByte v)] with sp := s.sp - 2 } := by
  simp [State.push16]

@[simp] theorem State.pop16_eq (s : State) :
    s.pop16 = (mkWord (s.answer 1 (s.sp + 1)) (s.answer 0 s.sp),
      { s.saw [.read s.sp (s.answer 0 s.sp), .read (s.sp + 1) (s.answer 1 (s.sp + 1))] with sp := s.sp + 2 }) := by
  simp [State.pop16]

@[simp] theorem State.loadAcc_eq (s : State) (x : Word) :
    s.loadAcc x = { s.saw [.read x (s.answer 0 x)] with a := s.answer 0 x } := rfl

/-! ### How a step ends -/

@[simp] theorem State.finish_eq (s : State) (length n : Nat) :
    s.finish length n = .next (s.ended (s.pc + BitVec.ofNat 16 length) n) := rfl

@[simp] theorem State.jump_eq (s : State) (x : Word) (n : Nat) : s.jump x n = .next (s.ended x n) := rfl

@[simp] theorem State.hooked_eq (s : State) (k : Hook) (n : Nat) :
    s.hooked k n = .next { s with pc := s.pc + 1, report := .completed n k } := rfl

@[simp] theorem State.raise_eq (s : State) (kind : FatalKind) (op : Byte) (p : Bool) :
    s.raise kind op p = .next (s.failed ⟨kind, op, p, s.pc⟩) := rfl

@[simp] theorem State.assertReset_eq (r : ResetRegs) (s : State) :
    s.assertReset r = { State.launch r s.params s.mem with reads := s.reads } := rfl

/-! ### The operand paths -/

theorem aluHlInd_wired (i : Instr) (op : Byte) (g : Byte → State → State) (s : State) (h : s.params.unwired.alu8HlInd = false) :
    aluHlInd i op g s = (g (s.answer 0 s.hl) (s.saw [.read s.hl (s.answer 0 s.hl)])).finish 1 (s.figure i true 8) := by
  simp [aluHlInd, h]

theorem aluHlInd_unwired (i : Instr) (op : Byte) (g : Byte → State → State) (s : State) (h : s.params.unwired.alu8HlInd = true) :
    aluHlInd i op g s = .next (s.failed ⟨.unimplementedOperand, op, false, s.pc⟩) := by
  simp [aluHlInd, h]

theorem aluImm_wired (i : Instr) (op : Byte) (g : Byte → State → State) (s : State) (h : s.params.unwired.alu8Imm = false) :
    aluImm i op g s =
      (g (s.answer 0 (s.pc + 1)) (s.saw [.read (s.pc + 1) (s.answer 0 (s.pc + 1))])).finish 2 (s.figure i true 8) := by
  simp [aluImm, h]

theorem aluImm_unwired (i : Instr) (op : Byte) (g : Byte → State → State) (s : State) (h : s.params.unwired.alu8Imm = true) :
    aluImm i op g s = .next (s.failed ⟨.unimplementedOperand, op, false, s.pc⟩) := by
  simp [aluImm, h]

@[simp] theorem onHlByte_eq (g : Byte → Flags → ByteResult) (s : State) :
    onHlByte g s =
      ((s.poke s.hl (g (s.answer 0 s.hl) s.f).val).saw
        [.read s.hl (s.answer 0 s.hl), .write s.hl (g (s.answer 0 s.hl) s.f).val]).setFlags
        (g (s.answer 0 s.hl) s.f).flags := by
  simp [onHlByte]

theorem incDecHl_wired (i : Instr) (op : Byte) (g : Byte → Flags → ByteResult) (s : State)
    (h : s.params.unwired.incDec8HlInd = false) : incDecHl i op g s = (onHlByte g s).finish 1 (s.figure i true 12) := by
  simp [incDecHl, h]

theorem incDecHl_unwired (i : Instr) (op : Byte) (g : Byte → Flags → ByteResult) (s : State)
    (h : s.params.unwired.incDec8HlInd = true) :
    incDecHl i op g s = .next (s.failed ⟨.unimplementedOperand, op, false, s.pc⟩) := by
  simp [incDecHl, h]

@[simp] theorem accRotate_eq (i : Instr) (o : ByteResult) (s : State) :
    accRotate i o s =
      .next ({ s with a := o.val, f := ⟨false, o.flags.n, o.flags.h, o.flags.c⟩ }.ended (s.pc + 1)
        (s.figure i true 4)) := rfl

@[simp] theorem cbReg_eq (i : Instr) (g : Byte → Flags → ByteResult) (r : Reg8) (s : State) :
    cbReg i g r s =
      .next (((s.setReg r (g (s.reg r) s.f).val).setFlags (g (s.reg r) s.f).flags).ended (s.pc + 2)
        (s.figure i true 8)) := by
  simp [cbReg]

@[simp] theorem cbHl_eq (i : Instr) (g : Byte → Flags → ByteResult) (s : State) :
    cbHl i g s =
      .next (((s.poke s.hl (g (s.answer 0 s.hl) s.f).val).saw
        [.read s.hl (s.answer 0 s.hl), .write s.hl (g (s.answer 0 s.hl) s.f).val]).setFlags
        (g (s.answer 0 s.hl) s.f).flags |>.ended (s.pc + 2) (s.figure i true 16)) := by
  simp [cbHl]

@[simp] theorem noMappingAt_eq (op : Byte) (s : State) :
    noMappingAt op s = .next (s.failed ⟨.decodeFailure, op, false, s.pc⟩) := rfl

/-! ### The figures -/

/-- The figure depends on the parameters alone. -/
theorem State.figure_congr {s t : State} (h : t.params = s.params) (i : Instr) (tk : Bool) (n : Nat) :
    t.figure i tk n = s.figure i tk n := by rw [State.figure, State.figure, h]

@[simp] theorem State.figure_saw (s : State) (ts : List Txn) (i : Instr) (tk : Bool) (n : Nat) :
    (s.saw ts).figure i tk n = s.figure i tk n := rfl

@[simp] theorem State.figure_fetched (s : State) (ts : List Txn) (i : Instr) (tk : Bool) (n : Nat) :
    (s.fetched ts).figure i tk n = s.figure i tk n := rfl

/-- With no replacement, `CYCLES` is the table of R372. -/
theorem State.figure_of_nil {s : State} (h : s.params.cycles = []) (i : Instr) (tk : Bool) (n : Nat) :
    s.figure i tk n = n := by rw [State.figure, h, replacedFigure]

/-! ### The step -/

theorem fetchOpcode_eq (s : State) :
    fetchOpcode s = (s.answer 0 s.pc, s.fetched [.read s.pc (s.answer 0 s.pc)]) := rfl

/-- The row of a byte with no mapping does what the orchestrator does with one. -/
theorem exec_of_noMapping {i : Instr} {op : Byte} (s : State) (hi : i.noMapping = true) (he : encode i = [op]) :
    exec i s = .next (s.failed ⟨.decodeFailure, op, false, s.pc⟩) := by
  cases i <;> first | exact absurd hi Bool.false_ne_true | (cases he; rfl)

/-- What the orchestrator does with an opcode byte: a byte the parameter `ILLEGAL` adds fails, every other runs its
row. -/
theorem runOpcode_eq (op : Byte) (s : State) :
    runOpcode op s = if op ≠ 0xCB ∧ op ∈ s.params.illegal then .next (s.failed ⟨.decodeFailure, op, false, s.pc⟩)
      else exec (unprefixedRow op) s := by
  have hd : decodeByte s.params.illegal op false =
      if (unprefixedRow op).noMapping || (op != 0xCB && s.params.illegal.contains op) then none
      else some (unprefixedRow op) := rfl
  unfold runOpcode
  rw [hd]
  by_cases hi : op ≠ 0xCB ∧ op ∈ s.params.illegal
  · rw [if_pos hi, if_pos (by simpa [hi.2] using .inr hi.1)]
    rfl
  · rw [if_neg hi]
    cases hn : (unprefixedRow op).noMapping with
    | true => exact (exec_of_noMapping s hn (encode_unprefixedRow op)).symm
    | false => rw [if_neg (by simpa using hi)]

theorem step_of_running (s : State) (h : s.Running) :
    step s =
      if s.answer 0 s.pc ≠ 0xCB ∧ s.answer 0 s.pc ∈ s.params.illegal then
        .next ((s.fetched [.read s.pc (s.answer 0 s.pc)]).failed ⟨.decodeFailure, s.answer 0 s.pc, false, s.pc⟩)
      else exec (unprefixedRow (s.answer 0 s.pc)) (s.fetched [.read s.pc (s.answer 0 s.pc)]) := by
  have hl : s.latch = none := h
  have hs : step s = runOpcode (fetchOpcode s).1 (fetchOpcode s).2 := by simp [step, runStep, hl]
  rw [hs]
  exact runOpcode_eq _ _

theorem step_of_latched (s : State) {r : FaultRecord} (h : s.latch = some r) : step s = .fault (.stopped r) := by
  simp [step, runStep, h]

end Sys2Proof.Machine
end

