-- ==== Sys2Proof/Laws/Prefixed.lean ====
section
/-! SUPPORT. The prefix byte runs exactly the row of its second byte: the branch of `runPrefixedRow` for a row of the
other table is never reached. -/

namespace Sys2Proof.Machine

/-- On a row of the prefixed table, `runPrefixedRow` is `exec`. -/
theorem runPrefixedRow_of_isPrefixed (i : Instr) (op2 : Byte) (s : State) (h : i.isPrefixed = true) :
    runPrefixedRow i op2 s = exec i s := by
  cases i <;> first | exact absurd h Bool.false_ne_true | rfl

/-- What the prefix byte does. -/
theorem execPrefixCb_eq (s : State) :
    execPrefixCb s = exec (prefixedRow (s.answer 0 (s.pc + 1))) (s.saw [.read (s.pc + 1) (s.answer 0 (s.pc + 1))]) :=
  runPrefixedRow_of_isPrefixed _ _ _ (prefixedRow_isPrefixed _)

end Sys2Proof.Machine
end

