-- ==== Sys2Proof/Laws/Exec.lean ====
section
/-! SUPPORT. One inversion lemma for `exec`: everything an instruction can do to the latch, the parameters, the
outputs, memory and the bus. Proofs about every instruction cite it instead of unfolding the meanings. -/

namespace Sys2Proof.Machine

/-- At most `n` reads, then at most `w` writes. -/
def ordered : Nat → Nat → List Txn → Bool
  | _, _, [] => true
  | n + 1, w, .read _ _ :: l => ordered n w l
  | 0, _, .read _ _ :: _ => false
  | _, w + 1, .write _ _ :: l => ordered 0 w l
  | _, 0, .write _ _ :: _ => false

/-- An ordered list is its reads followed by its writes. -/
theorem ordered_split : ∀ {l : List Txn} {n w : Nat}, ordered n w l = true →
    ∃ rs ws : List Txn, l = rs ++ ws ∧ (∀ x ∈ rs, x.isRead = true) ∧ (∀ x ∈ ws, x.isRead = false) ∧
      rs.length ≤ n ∧ ws.length ≤ w
  | [], _, _, _ => ⟨[], [], by simp⟩
  | .read x v :: l, n + 1, w, h => by
    obtain ⟨rs, ws, rfl, hr, hw, hn, hm⟩ := ordered_split (l := l) (n := n) (w := w) h
    exact ⟨.read x v :: rs, ws, rfl, by simpa [Txn.isRead] using hr, hw, by simpa using hn, hm⟩
  | .read _ _ :: _, 0, _, h => by simp [ordered] at h
  | .write x v :: l, n, w + 1, h => by
    obtain ⟨rs, ws, rfl, -, hw, hn, hm⟩ := ordered_split (l := l) (n := 0) (w := w) (by simpa [ordered] using h)
    obtain rfl : rs = [] := List.length_eq_zero_iff.1 (Nat.le_zero.1 hn)
    exact ⟨[], .write x v :: ws, rfl, by simp, by simpa [Txn.isRead] using hw, Nat.zero_le _, by simpa using hm⟩
  | .write _ _ :: _, n, 0, h => by simp [ordered] at h

/-- A larger budget of reads. -/
theorem ordered_mono : ∀ {l : List Txn} {n m w : Nat}, n ≤ m → ordered n w l = true → ordered m w l = true
  | [], _, _, _, _, _ => by simp [ordered]
  | .read _ _ :: l, n + 1, m + 1, w, hnm, h => ordered_mono (l := l) (Nat.le_of_succ_le_succ hnm) h
  | .read _ _ :: _, 0, _, _, _, h => by simp [ordered] at h
  | .write _ _ :: _, _, _, _ + 1, _, h => by simpa [ordered] using h
  | .write _ _ :: _, _, _, 0, _, h => by simp [ordered] at h

/-- How many reads an instruction makes at most, after those the step makes for the opcode. -/
def readBudget (i : Instr) : Nat := if i.isPrefixed then 1 else 3

/-- Each read was answered as the reading of memory says, the first of them with `k` reads before it. -/
def answered (s : State) : Nat → List Txn → Prop
  | _, [] => True
  | k, .read x v :: l => v = s.answer k x ∧ answered s (k + 1) l
  | k, .write _ _ :: l => answered s k l

/-- The answer of one of the reads. -/
theorem answered_at {s : State} {x : Word} {v : Byte} {ws : List Txn} : ∀ {rs : List Txn} {k : Nat},
    answered s k (rs ++ .read x v :: ws) → v = s.answer (k + busReads rs) x
  | [], _, h => h.1
  | .read y w :: rs, k, h => by
    have := answered_at (rs := rs) h.2
    rwa [Nat.add_assoc, Nat.add_comm 1] at this
  | .write y w :: rs, k, h => answered_at (rs := rs) (k := k) h

/-- Reads numbered from a later start: `n` reads came between the two states. -/
theorem answered_shift {s t : State} {n : Nat} (ht : ∀ k x, t.answer k x = s.answer (n + k) x) :
    ∀ {l : List Txn} {k : Nat}, answered t k l → answered s (n + k) l
  | [], _, _ => trivial
  | .read _ _ :: l, _, h => ⟨by rw [h.1, ht], answered_shift ht (l := l) h.2⟩
  | .write _ _ :: l, k, h => answered_shift ht (l := l) (k := k) h

/-- What a completed instruction did, up to its registers, with at most `n` reads. -/
structure Completed (n : Nat) (s t : State) : Prop where
  latch  : t.latch = s.latch
  params : t.params = s.params
  report : ∃ n k, t.report = .completed n k
  bus    : ∃ l : List Txn, t.bus = s.bus ++ l ∧ t.mem = replay l s.mem ∧ ordered n 2 l = true ∧
    t.reads = s.reads + busReads l ∧ answered s 0 l

/-- The fatal conditions an instruction can end in: the kind and the opcode byte its record holds. -/
def raises (i : Instr) (u : Unwired) (kind : FatalKind) (op : Byte) : Prop :=
  encode i = [op] ∧
  match kind with
  | .decodeFailure => i.noMapping = true
  | .unimplementedOperand => unimplementedUnder u op

/-- Everything `exec` can answer: a completed instruction, or a raised fatal condition that changed nothing else. -/
def Answer (i : Instr) (s : State) (r : Result) : Prop :=
  ∃ t, r = .next t ∧
    (Completed (readBudget i) s t ∨ ∃ kind op, raises i s.params.unwired kind op ∧ t = s.failed ⟨kind, op, false, s.pc⟩)

/-- A completed step from its transactions. -/
theorem Answer.of_ended {i : Instr} {s t : State} (l : List Txn) {x : Word} {n : Nat} (hl : t.latch = s.latch)
    (hp : t.params = s.params) (hb : t.bus = s.bus ++ l) (hm : t.mem = replay l s.mem) (hr : ordered (readBudget i) 2 l = true)
    (hc : t.reads = s.reads + busReads l) (hv : answered s 0 l) : Answer i s (.next (t.ended x n)) :=
  ⟨_, rfl, .inl ⟨hl, hp, ⟨n, .none, rfl⟩, l, hb, hm, hr, hc, hv⟩⟩

/-- A completed hook. -/
theorem Answer.of_hooked {i : Instr} {s : State} {k : Hook} {n : Nat} : Answer i s (s.hooked k n) :=
  ⟨_, rfl, .inl ⟨rfl, rfl, ⟨n, k, rfl⟩, [], by simp, rfl, by simp [ordered], rfl, trivial⟩⟩

/-- A raised fatal condition. -/
theorem Answer.of_raise {i : Instr} {s : State} {kind : FatalKind} {op : Byte}
    (h : raises i s.params.unwired kind op) : Answer i s (s.raise kind op false) :=
  ⟨_, rfl, .inr ⟨kind, op, h, rfl⟩⟩

/-- An HL-indirect operand of a two-operand operation. -/
theorem Answer.of_aluHlInd {i : Instr} {s : State} {op : Byte} {g : Byte → State → State} (hi : i.isPrefixed = false)
    (he : encode i = [op])
    (ho : op ∈ ([0x86, 0x8E, 0x96, 0x9E, 0xA6, 0xAE, 0xB6, 0xBE] : List Byte))
    (hg : ∀ v t, (g v t).latch = t.latch ∧ (g v t).params = t.params ∧ (g v t).bus = t.bus ∧ (g v t).mem = t.mem ∧
      (g v t).reads = t.reads) :
    Answer i s (aluHlInd i op g s) := by
  by_cases hu : s.params.unwired.alu8HlInd = true
  · rw [aluHlInd_unwired _ _ _ _ hu]
    exact .of_raise ⟨he, .inr (.inl ⟨hu, ho⟩)⟩
  · rw [aluHlInd_wired _ _ _ _ (by simpa using hu)]
    obtain ⟨h1, h2, h3, h4, h5⟩ := hg (s.answer 0 s.hl) (s.saw [.read s.hl (s.answer 0 s.hl)])
    exact .of_ended _ h1 h2 h3 h4 (by rw [readBudget, hi]; rfl) h5 (by simp [answered])

/-- An immediate operand of a two-operand operation. -/
theorem Answer.of_aluImm {i : Instr} {s : State} {op : Byte} {g : Byte → State → State} (hi : i.isPrefixed = false)
    (he : encode i = [op])
    (ho : op ∈ ([0xC6, 0xCE, 0xD6, 0xDE, 0xE6, 0xEE, 0xF6, 0xFE] : List Byte))
    (hg : ∀ v t, (g v t).latch = t.latch ∧ (g v t).params = t.params ∧ (g v t).bus = t.bus ∧ (g v t).mem = t.mem ∧
      (g v t).reads = t.reads) :
    Answer i s (aluImm i op g s) := by
  by_cases hu : s.params.unwired.alu8Imm = true
  · rw [aluImm_unwired _ _ _ _ hu]
    exact .of_raise ⟨he, .inr (.inr (.inl ⟨hu, ho⟩))⟩
  · rw [aluImm_wired _ _ _ _ (by simpa using hu)]
    obtain ⟨h1, h2, h3, h4, h5⟩ := hg (s.answer 0 (s.pc + 1)) (s.saw [.read (s.pc + 1) (s.answer 0 (s.pc + 1))])
    exact .of_ended _ h1 h2 h3 h4 (by rw [readBudget, hi]; rfl) h5 (by simp [answered])

/-- `INC (HL)` and `DEC (HL)`. -/
theorem Answer.of_incDecHl {i : Instr} {s : State} {op : Byte} {g : Byte → Flags → ByteResult} (hi : i.isPrefixed = false)
    (he : encode i = [op])
    (ho : op ∈ ([0x34, 0x35] : List Byte)) : Answer i s (incDecHl i op g s) := by
  by_cases hu : s.params.unwired.incDec8HlInd = true
  · rw [incDecHl_unwired _ _ _ _ hu]
    exact .of_raise ⟨he, .inr (.inr (.inr ⟨hu, ho⟩))⟩
  · rw [incDecHl_wired _ _ _ _ (by simpa using hu), onHlByte_eq]
    exact .of_ended _ rfl rfl rfl rfl (by rw [readBudget, hi]; rfl) rfl (by simp [answered])

/-- A read-modify-write of the byte at HL. -/
theorem Answer.of_cbHl {i : Instr} {s : State} {g : Byte → Flags → ByteResult} (hi : i.isPrefixed = true) :
    Answer i s (cbHl i g s) := by
  rw [cbHl_eq]
  exact .of_ended _ rfl rfl rfl rfl (by rw [readBudget, if_pos hi]; rfl) rfl (by simp [answered])

/-- An operation on registers and flags alone. -/
theorem Answer.of_registers {i : Instr} {s t : State} {x : Word} {n : Nat} (hl : t.latch = s.latch)
    (hp : t.params = s.params) (hb : t.bus = s.bus) (hm : t.mem = s.mem) (hc : t.reads = s.reads) :
    Answer i s (.next (t.ended x n)) :=
  .of_ended [] hl hp (by simpa using hb) hm (by simp [ordered]) hc trivial

/-! ### One lemma per meaning -/

theorem execNop_answer (s : State) :
    Answer (.nop) s (execNop s) := by
  unfold execNop
  exact .of_hooked

theorem execStop_answer (s : State) :
    Answer (.stop) s (execStop s) := by
  unfold execStop
  exact .of_raise ⟨rfl, .inl rfl⟩

theorem execHalt_answer (s : State) :
    Answer (.halt) s (execHalt s) := by
  unfold execHalt
  exact .of_hooked

theorem execDi_answer (s : State) :
    Answer (.di) s (execDi s) := by
  unfold execDi
  exact .of_hooked

theorem execEi_answer (s : State) :
    Answer (.ei) s (execEi s) := by
  unfold execEi
  exact .of_hooked

theorem execReti_answer (s : State) :
    Answer (.reti) s (execReti s) := by
  unfold execReti
  exact .of_hooked

theorem execIllegalD3_answer (s : State) :
    Answer (.illegalD3) s (execIllegalD3 s) := by
  unfold execIllegalD3
  exact .of_raise ⟨rfl, rfl⟩

theorem execIllegalDB_answer (s : State) :
    Answer (.illegalDB) s (execIllegalDB s) := by
  unfold execIllegalDB
  exact .of_raise ⟨rfl, rfl⟩

theorem execIllegalDD_answer (s : State) :
    Answer (.illegalDD) s (execIllegalDD s) := by
  unfold execIllegalDD
  exact .of_raise ⟨rfl, rfl⟩

theorem execIllegalE3_answer (s : State) :
    Answer (.illegalE3) s (execIllegalE3 s) := by
  unfold execIllegalE3
  exact .of_raise ⟨rfl, rfl⟩

theorem execIllegalE4_answer (s : State) :
    Answer (.illegalE4) s (execIllegalE4 s) := by
  unfold execIllegalE4
  exact .of_raise ⟨rfl, rfl⟩

theorem execIllegalEB_answer (s : State) :
    Answer (.illegalEB) s (execIllegalEB s) := by
  unfold execIllegalEB
  exact .of_raise ⟨rfl, rfl⟩

theorem execIllegalEC_answer (s : State) :
    Answer (.illegalEC) s (execIllegalEC s) := by
  unfold execIllegalEC
  exact .of_raise ⟨rfl, rfl⟩

theorem execIllegalED_answer (s : State) :
    Answer (.illegalED) s (execIllegalED s) := by
  unfold execIllegalED
  exact .of_raise ⟨rfl, rfl⟩

theorem execIllegalF4_answer (s : State) :
    Answer (.illegalF4) s (execIllegalF4 s) := by
  unfold execIllegalF4
  exact .of_raise ⟨rfl, rfl⟩

theorem execIllegalFC_answer (s : State) :
    Answer (.illegalFC) s (execIllegalFC s) := by
  unfold execIllegalFC
  exact .of_raise ⟨rfl, rfl⟩

theorem execIllegalFD_answer (s : State) :
    Answer (.illegalFD) s (execIllegalFD s) := by
  unfold execIllegalFD
  exact .of_raise ⟨rfl, rfl⟩

theorem execLdRR_answer (rd rs : Reg8) (s : State) :
    Answer (.ldRR rd rs) s (execLdRR rd rs s) := by
  simp only [execLdRR, State.finish_eq]
  cases rd <;> exact .of_registers rfl rfl rfl rfl rfl

theorem execLdRN_answer (rd : Reg8) (s : State) :
    Answer (.ldRN rd) s (execLdRN rd s) := by
  simp only [execLdRN, State.imm8_eq, State.finish_eq]
  cases rd <;> exact .of_ended _ rfl rfl rfl rfl rfl rfl (by simp [answered])

theorem execLdRHl_answer (rd : Reg8) (s : State) :
    Answer (.ldRHl rd) s (execLdRHl rd s) := by
  simp only [execLdRHl, State.memRead_eq, State.finish_eq]
  cases rd <;> exact .of_ended _ rfl rfl rfl rfl rfl rfl (by simp [answered])

theorem execLdHlR_answer (r : Reg8) (s : State) :
    Answer (.ldHlR r) s (execLdHlR r s) := by
  simp only [execLdHlR, State.memWrite_eq, State.finish_eq]
  exact .of_ended _ rfl rfl rfl rfl rfl rfl (by simp [answered])

theorem execLdHlN_answer (s : State) :
    Answer (.ldHlN) s (execLdHlN s) := by
  simp only [execLdHlN, State.memWrite_eq, State.imm8_eq, State.finish_eq, State.saw_saw, State.saw_poke, List.cons_append, List.nil_append]
  exact .of_ended _ rfl rfl rfl rfl rfl rfl (by simp [answered])

theorem execLdABc_answer (s : State) :
    Answer (.ldABc) s (execLdABc s) := by
  simp only [execLdABc, State.loadAcc_eq, State.finish_eq]
  exact .of_ended _ rfl rfl rfl rfl rfl rfl (by simp [answered])

theorem execLdADe_answer (s : State) :
    Answer (.ldADe) s (execLdADe s) := by
  simp only [execLdADe, State.loadAcc_eq, State.finish_eq]
  exact .of_ended _ rfl rfl rfl rfl rfl rfl (by simp [answered])

theorem execLdBcA_answer (s : State) :
    Answer (.ldBcA) s (execLdBcA s) := by
  simp only [execLdBcA, State.memWrite_eq, State.finish_eq]
  exact .of_ended _ rfl rfl rfl rfl rfl rfl (by simp [answered])

theorem execLdDeA_answer (s : State) :
    Answer (.ldDeA) s (execLdDeA s) := by
  simp only [execLdDeA, State.memWrite_eq, State.finish_eq]
  exact .of_ended _ rfl rfl rfl rfl rfl rfl (by simp [answered])

theorem execLdAHli_answer (s : State) :
    Answer (.ldAHli) s (execLdAHli s) := by
  simp only [execLdAHli, State.loadAcc_eq, State.finish_eq]
  exact .of_ended _ rfl rfl rfl rfl rfl rfl (by simp [answered])

theorem execLdAHld_answer (s : State) :
    Answer (.ldAHld) s (execLdAHld s) := by
  simp only [execLdAHld, State.loadAcc_eq, State.finish_eq]
  exact .of_ended _ rfl rfl rfl rfl rfl rfl (by simp [answered])

theorem execLdHliA_answer (s : State) :
    Answer (.ldHliA) s (execLdHliA s) := by
  simp only [execLdHliA, State.memWrite_eq, State.finish_eq]
  exact .of_ended _ rfl rfl rfl rfl rfl rfl (by simp [answered])

theorem execLdHldA_answer (s : State) :
    Answer (.ldHldA) s (execLdHldA s) := by
  simp only [execLdHldA, State.memWrite_eq, State.finish_eq]
  exact .of_ended _ rfl rfl rfl rfl rfl rfl (by simp [answered])

theorem execLdANn_answer (s : State) :
    Answer (.ldANn) s (execLdANn s) := by
  simp only [execLdANn, State.imm16_eq, State.loadAcc_eq, State.finish_eq, State.saw_saw, List.cons_append, List.nil_append]
  exact .of_ended _ rfl rfl rfl rfl rfl rfl (by simp [answered])

theorem execLdNnA_answer (s : State) :
    Answer (.ldNnA) s (execLdNnA s) := by
  simp only [execLdNnA, State.memWrite_eq, State.imm16_eq, State.finish_eq, State.saw_saw, State.saw_poke, List.cons_append, List.nil_append]
  exact .of_ended _ rfl rfl rfl rfl rfl rfl (by simp [answered])

theorem execLdhAN_answer (s : State) :
    Answer (.ldhAN) s (execLdhAN s) := by
  simp only [execLdhAN, State.imm8_eq, State.loadAcc_eq, State.finish_eq, State.saw_saw, List.cons_append, List.nil_append]
  exact .of_ended _ rfl rfl rfl rfl rfl rfl (by simp [answered])

theorem execLdhNA_answer (s : State) :
    Answer (.ldhNA) s (execLdhNA s) := by
  simp only [execLdhNA, State.memWrite_eq, State.imm8_eq, State.finish_eq, State.saw_saw, State.saw_poke, List.cons_append, List.nil_append]
  exact .of_ended _ rfl rfl rfl rfl rfl rfl (by simp [answered])

theorem execLdhAC_answer (s : State) :
    Answer (.ldhAC) s (execLdhAC s) := by
  simp only [execLdhAC, State.loadAcc_eq, State.finish_eq]
  exact .of_ended _ rfl rfl rfl rfl rfl rfl (by simp [answered])

theorem execLdhCA_answer (s : State) :
    Answer (.ldhCA) s (execLdhCA s) := by
  simp only [execLdhCA, State.memWrite_eq, State.finish_eq]
  exact .of_ended _ rfl rfl rfl rfl rfl rfl (by simp [answered])

theorem execLdRpNn_answer (p : Rp) (s : State) :
    Answer (.ldRpNn p) s (execLdRpNn p s) := by
  simp only [execLdRpNn, State.imm16_eq, State.finish_eq]
  cases p <;> exact .of_ended _ rfl rfl rfl rfl rfl rfl (by simp [answered])

theorem execLdSpHl_answer (s : State) :
    Answer (.ldSpHl) s (execLdSpHl s) := by
  simp only [execLdSpHl, State.finish_eq]
  exact .of_registers rfl rfl rfl rfl rfl

theorem execLdHlSpE_answer (s : State) :
    Answer (.ldHlSpE) s (execLdHlSpE s) := by
  simp only [execLdHlSpE, State.imm8_eq, State.finish_eq]
  exact .of_ended _ rfl rfl rfl rfl rfl rfl (by simp [answered])

theorem execLdNnSp_answer (s : State) :
    Answer (.ldNnSp) s (execLdNnSp s) := by
  simp only [execLdNnSp, State.memWrite_eq, State.imm16_eq, State.finish_eq, State.saw_saw, State.saw_poke, List.cons_append, List.nil_append]
  exact .of_ended _ rfl rfl rfl rfl rfl rfl (by simp [answered])

theorem execAddAR_answer (r : Reg8) (s : State) :
    Answer (.addAR r) s (execAddAR r s) := by
  simp only [execAddAR, State.finish_eq]
  exact .of_registers rfl rfl rfl rfl rfl

theorem execAddAHl_answer (s : State) :
    Answer (.addAHl) s (execAddAHl s) := by
  unfold execAddAHl
  exact .of_aluHlInd rfl rfl (by decide) fun _ _ => ⟨rfl, rfl, rfl, rfl, rfl⟩

theorem execAddAN_answer (s : State) :
    Answer (.addAN) s (execAddAN s) := by
  unfold execAddAN
  exact .of_aluImm rfl rfl (by decide) fun _ _ => ⟨rfl, rfl, rfl, rfl, rfl⟩

theorem execAdcAR_answer (r : Reg8) (s : State) :
    Answer (.adcAR r) s (execAdcAR r s) := by
  simp only [execAdcAR, State.finish_eq]
  exact .of_registers rfl rfl rfl rfl rfl

theorem execAdcAHl_answer (s : State) :
    Answer (.adcAHl) s (execAdcAHl s) := by
  unfold execAdcAHl
  exact .of_aluHlInd rfl rfl (by decide) fun _ _ => ⟨rfl, rfl, rfl, rfl, rfl⟩

theorem execAdcAN_answer (s : State) :
    Answer (.adcAN) s (execAdcAN s) := by
  unfold execAdcAN
  exact .of_aluImm rfl rfl (by decide) fun _ _ => ⟨rfl, rfl, rfl, rfl, rfl⟩

theorem execSubR_answer (r : Reg8) (s : State) :
    Answer (.subR r) s (execSubR r s) := by
  simp only [execSubR, State.finish_eq]
  exact .of_registers rfl rfl rfl rfl rfl

theorem execSubHl_answer (s : State) :
    Answer (.subHl) s (execSubHl s) := by
  unfold execSubHl
  exact .of_aluHlInd rfl rfl (by decide) fun _ _ => ⟨rfl, rfl, rfl, rfl, rfl⟩

theorem execSubN_answer (s : State) :
    Answer (.subN) s (execSubN s) := by
  unfold execSubN
  exact .of_aluImm rfl rfl (by decide) fun _ _ => ⟨rfl, rfl, rfl, rfl, rfl⟩

theorem execSbcAR_answer (r : Reg8) (s : State) :
    Answer (.sbcAR r) s (execSbcAR r s) := by
  simp only [execSbcAR, State.finish_eq]
  exact .of_registers rfl rfl rfl rfl rfl

theorem execSbcAHl_answer (s : State) :
    Answer (.sbcAHl) s (execSbcAHl s) := by
  unfold execSbcAHl
  exact .of_aluHlInd rfl rfl (by decide) fun _ _ => ⟨rfl, rfl, rfl, rfl, rfl⟩

theorem execSbcAN_answer (s : State) :
    Answer (.sbcAN) s (execSbcAN s) := by
  unfold execSbcAN
  exact .of_aluImm rfl rfl (by decide) fun _ _ => ⟨rfl, rfl, rfl, rfl, rfl⟩

theorem execAndR_answer (r : Reg8) (s : State) :
    Answer (.andR r) s (execAndR r s) := by
  simp only [execAndR, State.finish_eq]
  exact .of_registers rfl rfl rfl rfl rfl

theorem execAndHl_answer (s : State) :
    Answer (.andHl) s (execAndHl s) := by
  unfold execAndHl
  exact .of_aluHlInd rfl rfl (by decide) fun _ _ => ⟨rfl, rfl, rfl, rfl, rfl⟩

theorem execAndN_answer (s : State) :
    Answer (.andN) s (execAndN s) := by
  unfold execAndN
  exact .of_aluImm rfl rfl (by decide) fun _ _ => ⟨rfl, rfl, rfl, rfl, rfl⟩

theorem execXorR_answer (r : Reg8) (s : State) :
    Answer (.xorR r) s (execXorR r s) := by
  simp only [execXorR, State.finish_eq]
  exact .of_registers rfl rfl rfl rfl rfl

theorem execXorHl_answer (s : State) :
    Answer (.xorHl) s (execXorHl s) := by
  unfold execXorHl
  exact .of_aluHlInd rfl rfl (by decide) fun _ _ => ⟨rfl, rfl, rfl, rfl, rfl⟩

theorem execXorN_answer (s : State) :
    Answer (.xorN) s (execXorN s) := by
  unfold execXorN
  exact .of_aluImm rfl rfl (by decide) fun _ _ => ⟨rfl, rfl, rfl, rfl, rfl⟩

theorem execOrR_answer (r : Reg8) (s : State) :
    Answer (.orR r) s (execOrR r s) := by
  simp only [execOrR, State.finish_eq]
  exact .of_registers rfl rfl rfl rfl rfl

theorem execOrHl_answer (s : State) :
    Answer (.orHl) s (execOrHl s) := by
  unfold execOrHl
  exact .of_aluHlInd rfl rfl (by decide) fun _ _ => ⟨rfl, rfl, rfl, rfl, rfl⟩

theorem execOrN_answer (s : State) :
    Answer (.orN) s (execOrN s) := by
  unfold execOrN
  exact .of_aluImm rfl rfl (by decide) fun _ _ => ⟨rfl, rfl, rfl, rfl, rfl⟩

theorem execCpR_answer (r : Reg8) (s : State) :
    Answer (.cpR r) s (execCpR r s) := by
  simp only [execCpR, State.finish_eq]
  exact .of_registers rfl rfl rfl rfl rfl

theorem execCpHl_answer (s : State) :
    Answer (.cpHl) s (execCpHl s) := by
  unfold execCpHl
  exact .of_aluHlInd rfl rfl (by decide) fun _ _ => ⟨rfl, rfl, rfl, rfl, rfl⟩

theorem execCpN_answer (s : State) :
    Answer (.cpN) s (execCpN s) := by
  unfold execCpN
  exact .of_aluImm rfl rfl (by decide) fun _ _ => ⟨rfl, rfl, rfl, rfl, rfl⟩

theorem execIncR_answer (r : Reg8) (s : State) :
    Answer (.incR r) s (execIncR r s) := by
  simp only [execIncR, State.finish_eq]
  cases r <;> exact .of_registers rfl rfl rfl rfl rfl

theorem execIncHl_answer (s : State) :
    Answer (.incHl) s (execIncHl s) := by
  unfold execIncHl
  exact .of_incDecHl rfl rfl (by decide)

theorem execDecR_answer (r : Reg8) (s : State) :
    Answer (.decR r) s (execDecR r s) := by
  simp only [execDecR, State.finish_eq]
  cases r <;> exact .of_registers rfl rfl rfl rfl rfl

theorem execDecHl_answer (s : State) :
    Answer (.decHl) s (execDecHl s) := by
  unfold execDecHl
  exact .of_incDecHl rfl rfl (by decide)

theorem execIncRp_answer (p : Rp) (s : State) :
    Answer (.incRp p) s (execIncRp p s) := by
  simp only [execIncRp, State.finish_eq]
  cases p <;> exact .of_registers rfl rfl rfl rfl rfl

theorem execDecRp_answer (p : Rp) (s : State) :
    Answer (.decRp p) s (execDecRp p s) := by
  simp only [execDecRp, State.finish_eq]
  cases p <;> exact .of_registers rfl rfl rfl rfl rfl

theorem execAddHlRp_answer (p : Rp) (s : State) :
    Answer (.addHlRp p) s (execAddHlRp p s) := by
  simp only [execAddHlRp, State.finish_eq]
  exact .of_registers rfl rfl rfl rfl rfl

theorem execAddSpE_answer (s : State) :
    Answer (.addSpE) s (execAddSpE s) := by
  simp only [execAddSpE, State.imm8_eq, State.finish_eq]
  exact .of_ended _ rfl rfl rfl rfl rfl rfl (by simp [answered])

theorem execDaa_answer (s : State) :
    Answer (.daa) s (execDaa s) := by
  simp only [execDaa, State.finish_eq]
  exact .of_registers rfl rfl rfl rfl rfl

theorem execCpl_answer (s : State) :
    Answer (.cpl) s (execCpl s) := by
  simp only [execCpl, State.finish_eq]
  exact .of_registers rfl rfl rfl rfl rfl

theorem execScf_answer (s : State) :
    Answer (.scf) s (execScf s) := by
  simp only [execScf, State.finish_eq]
  exact .of_registers rfl rfl rfl rfl rfl

theorem execCcf_answer (s : State) :
    Answer (.ccf) s (execCcf s) := by
  simp only [execCcf, State.finish_eq]
  exact .of_registers rfl rfl rfl rfl rfl

theorem execRlca_answer (s : State) :
    Answer (.rlca) s (execRlca s) := by
  unfold execRlca
  rw [accRotate_eq]
  exact .of_registers rfl rfl rfl rfl rfl

theorem execRrca_answer (s : State) :
    Answer (.rrca) s (execRrca s) := by
  unfold execRrca
  rw [accRotate_eq]
  exact .of_registers rfl rfl rfl rfl rfl

theorem execRla_answer (s : State) :
    Answer (.rla) s (execRla s) := by
  unfold execRla
  rw [accRotate_eq]
  exact .of_registers rfl rfl rfl rfl rfl

theorem execRra_answer (s : State) :
    Answer (.rra) s (execRra s) := by
  unfold execRra
  rw [accRotate_eq]
  exact .of_registers rfl rfl rfl rfl rfl

theorem execRlcR_answer (r : Reg8) (s : State) :
    Answer (.rlcR r) s (execRlcR r s) := by
  unfold execRlcR
  rw [cbReg_eq]
  cases r <;> exact .of_registers rfl rfl rfl rfl rfl

theorem execRlcHl_answer (s : State) :
    Answer (.rlcHl) s (execRlcHl s) := by
  unfold execRlcHl
  exact .of_cbHl rfl

theorem execRrcR_answer (r : Reg8) (s : State) :
    Answer (.rrcR r) s (execRrcR r s) := by
  unfold execRrcR
  rw [cbReg_eq]
  cases r <;> exact .of_registers rfl rfl rfl rfl rfl

theorem execRrcHl_answer (s : State) :
    Answer (.rrcHl) s (execRrcHl s) := by
  unfold execRrcHl
  exact .of_cbHl rfl

theorem execRlR_answer (r : Reg8) (s : State) :
    Answer (.rlR r) s (execRlR r s) := by
  unfold execRlR
  rw [cbReg_eq]
  cases r <;> exact .of_registers rfl rfl rfl rfl rfl

theorem execRlHl_answer (s : State) :
    Answer (.rlHl) s (execRlHl s) := by
  unfold execRlHl
  exact .of_cbHl rfl

theorem execRrR_answer (r : Reg8) (s : State) :
    Answer (.rrR r) s (execRrR r s) := by
  unfold execRrR
  rw [cbReg_eq]
  cases r <;> exact .of_registers rfl rfl rfl rfl rfl

theorem execRrHl_answer (s : State) :
    Answer (.rrHl) s (execRrHl s) := by
  unfold execRrHl
  exact .of_cbHl rfl

theorem execSlaR_answer (r : Reg8) (s : State) :
    Answer (.slaR r) s (execSlaR r s) := by
  unfold execSlaR
  rw [cbReg_eq]
  cases r <;> exact .of_registers rfl rfl rfl rfl rfl

theorem execSlaHl_answer (s : State) :
    Answer (.slaHl) s (execSlaHl s) := by
  unfold execSlaHl
  exact .of_cbHl rfl

theorem execSraR_answer (r : Reg8) (s : State) :
    Answer (.sraR r) s (execSraR r s) := by
  unfold execSraR
  rw [cbReg_eq]
  cases r <;> exact .of_registers rfl rfl rfl rfl rfl

theorem execSraHl_answer (s : State) :
    Answer (.sraHl) s (execSraHl s) := by
  unfold execSraHl
  exact .of_cbHl rfl

theorem execSwapR_answer (r : Reg8) (s : State) :
    Answer (.swapR r) s (execSwapR r s) := by
  unfold execSwapR
  rw [cbReg_eq]
  cases r <;> exact .of_registers rfl rfl rfl rfl rfl

theorem execSwapHl_answer (s : State) :
    Answer (.swapHl) s (execSwapHl s) := by
  unfold execSwapHl
  exact .of_cbHl rfl

theorem execSrlR_answer (r : Reg8) (s : State) :
    Answer (.srlR r) s (execSrlR r s) := by
  unfold execSrlR
  rw [cbReg_eq]
  cases r <;> exact .of_registers rfl rfl rfl rfl rfl

theorem execSrlHl_answer (s : State) :
    Answer (.srlHl) s (execSrlHl s) := by
  unfold execSrlHl
  exact .of_cbHl rfl

theorem execBitR_answer (i : Fin 8) (r : Reg8) (s : State) :
    Answer (.bitR i r) s (execBitR i r s) := by
  simp only [execBitR, State.finish_eq]
  exact .of_registers rfl rfl rfl rfl rfl

theorem execBitHl_answer (i : Fin 8) (s : State) :
    Answer (.bitHl i) s (execBitHl i s) := by
  simp only [execBitHl, State.memRead_eq, State.finish_eq]
  exact .of_ended _ rfl rfl rfl rfl rfl rfl (by simp [answered])

theorem execResR_answer (i : Fin 8) (r : Reg8) (s : State) :
    Answer (.resR i r) s (execResR i r s) := by
  unfold execResR
  rw [cbReg_eq]
  cases r <;> exact .of_registers rfl rfl rfl rfl rfl

theorem execResHl_answer (i : Fin 8) (s : State) :
    Answer (.resHl i) s (execResHl i s) := by
  unfold execResHl
  exact .of_cbHl rfl

theorem execSetR_answer (i : Fin 8) (r : Reg8) (s : State) :
    Answer (.setR i r) s (execSetR i r s) := by
  unfold execSetR
  rw [cbReg_eq]
  cases r <;> exact .of_registers rfl rfl rfl rfl rfl

theorem execSetHl_answer (i : Fin 8) (s : State) :
    Answer (.setHl i) s (execSetHl i s) := by
  unfold execSetHl
  exact .of_cbHl rfl

theorem execJpNn_answer (s : State) :
    Answer (.jpNn) s (execJpNn s) := by
  simp only [execJpNn, State.imm16_eq, State.jump_eq]
  exact .of_ended _ rfl rfl rfl rfl rfl rfl (by simp [answered])

theorem execJpCcNn_answer (cc : Cond) (s : State) :
    Answer (.jpCcNn cc) s (execJpCcNn cc s) := by
  simp only [execJpCcNn, State.imm16_eq, State.finish_eq, State.jump_eq]
  split
  · exact .of_ended _ rfl rfl rfl rfl rfl rfl (by simp [answered])
  · exact .of_ended _ rfl rfl rfl rfl rfl rfl (by simp [answered])

theorem execJpHl_answer (s : State) :
    Answer (.jpHl) s (execJpHl s) := by
  simp only [execJpHl, State.jump_eq]
  exact .of_registers rfl rfl rfl rfl rfl

theorem execJrE_answer (s : State) :
    Answer (.jrE) s (execJrE s) := by
  simp only [execJrE, State.imm8_eq, State.jump_eq]
  exact .of_ended _ rfl rfl rfl rfl rfl rfl (by simp [answered])

theorem execJrCcE_answer (cc : Cond) (s : State) :
    Answer (.jrCcE cc) s (execJrCcE cc s) := by
  simp only [execJrCcE, State.imm8_eq, State.finish_eq, State.jump_eq]
  split
  · exact .of_ended _ rfl rfl rfl rfl rfl rfl (by simp [answered])
  · exact .of_ended _ rfl rfl rfl rfl rfl rfl (by simp [answered])

theorem execCallNn_answer (s : State) :
    Answer (.callNn) s (execCallNn s) := by
  simp only [execCallNn, State.imm16_eq, State.push16_eq, State.jump_eq, State.saw_saw, State.saw_poke, List.cons_append, List.nil_append]
  exact .of_ended _ rfl rfl rfl rfl rfl rfl (by simp [answered])

theorem execCallCcNn_answer (cc : Cond) (s : State) :
    Answer (.callCcNn cc) s (execCallCcNn cc s) := by
  simp only [execCallCcNn, State.imm16_eq, State.push16_eq, State.finish_eq, State.jump_eq, State.saw_saw, State.saw_poke, List.cons_append, List.nil_append]
  split
  · exact .of_ended _ rfl rfl rfl rfl rfl rfl (by simp [answered])
  · exact .of_ended _ rfl rfl rfl rfl rfl rfl (by simp [answered])

theorem execRet_answer (s : State) :
    Answer (.ret) s (execRet s) := by
  simp only [execRet, State.pop16_eq, State.jump_eq]
  exact .of_ended _ rfl rfl rfl rfl rfl rfl (by simp [answered])

theorem execRetCc_answer (cc : Cond) (s : State) :
    Answer (.retCc cc) s (execRetCc cc s) := by
  simp only [execRetCc, State.pop16_eq, State.finish_eq, State.jump_eq]
  split
  · exact .of_ended _ rfl rfl rfl rfl rfl rfl (by simp [answered])
  · exact .of_registers rfl rfl rfl rfl rfl

theorem execRst_answer (t : Fin 8) (s : State) :
    Answer (.rst t) s (execRst t s) := by
  simp only [execRst, State.push16_eq, State.jump_eq]
  exact .of_ended _ rfl rfl rfl rfl rfl rfl (by simp [answered])

theorem execPushRr_answer (q : Rp2) (s : State) :
    Answer (.pushRr q) s (execPushRr q s) := by
  simp only [execPushRr, State.push16_eq, State.finish_eq]
  exact .of_ended _ rfl rfl rfl rfl rfl rfl (by simp [answered])

theorem execPushAf_answer (s : State) :
    Answer (.pushAf) s (execPushAf s) := by
  simp only [execPushAf, State.push16_eq, State.finish_eq]
  exact .of_ended _ rfl rfl rfl rfl rfl rfl (by simp [answered])

theorem execPopRr_answer (q : Rp2) (s : State) :
    Answer (.popRr q) s (execPopRr q s) := by
  simp only [execPopRr, State.pop16_eq, State.finish_eq]
  cases q <;> exact .of_ended _ rfl rfl rfl rfl rfl rfl (by simp [answered])

theorem execPopAf_answer (s : State) :
    Answer (.popAf) s (execPopAf s) := by
  simp only [execPopAf, State.pop16_eq, State.finish_eq]
  exact .of_ended _ rfl rfl rfl rfl rfl rfl (by simp [answered])

/-! ### The inversion lemma -/

/-- Every instruction but the prefix byte. -/
theorem exec_answer_of_not_prefix (i : Instr) (s : State) (hi : i ≠ .prefixCb) : Answer i s (exec i s) := by
  cases i with
  | prefixCb => exact absurd rfl hi
  | nop => exact execNop_answer s
  | stop => exact execStop_answer s
  | halt => exact execHalt_answer s
  | di => exact execDi_answer s
  | ei => exact execEi_answer s
  | reti => exact execReti_answer s
  | ldRR rd rs => exact execLdRR_answer rd rs s
  | ldRN rd => exact execLdRN_answer rd s
  | ldRHl rd => exact execLdRHl_answer rd s
  | ldHlR r => exact execLdHlR_answer r s
  | ldHlN => exact execLdHlN_answer s
  | ldABc => exact execLdABc_answer s
  | ldADe => exact execLdADe_answer s
  | ldBcA => exact execLdBcA_answer s
  | ldDeA => exact execLdDeA_answer s
  | ldAHli => exact execLdAHli_answer s
  | ldAHld => exact execLdAHld_answer s
  | ldHliA => exact execLdHliA_answer s
  | ldHldA => exact execLdHldA_answer s
  | ldANn => exact execLdANn_answer s
  | ldNnA => exact execLdNnA_answer s
  | ldhAN => exact execLdhAN_answer s
  | ldhNA => exact execLdhNA_answer s
  | ldhAC => exact execLdhAC_answer s
  | ldhCA => exact execLdhCA_answer s
  | ldRpNn p => exact execLdRpNn_answer p s
  | ldSpHl => exact execLdSpHl_answer s
  | ldHlSpE => exact execLdHlSpE_answer s
  | ldNnSp => exact execLdNnSp_answer s
  | addAR r => exact execAddAR_answer r s
  | addAHl => exact execAddAHl_answer s
  | addAN => exact execAddAN_answer s
  | adcAR r => exact execAdcAR_answer r s
  | adcAHl => exact execAdcAHl_answer s
  | adcAN => exact execAdcAN_answer s
  | subR r => exact execSubR_answer r s
  | subHl => exact execSubHl_answer s
  | subN => exact execSubN_answer s
  | sbcAR r => exact execSbcAR_answer r s
  | sbcAHl => exact execSbcAHl_answer s
  | sbcAN => exact execSbcAN_answer s
  | andR r => exact execAndR_answer r s
  | andHl => exact execAndHl_answer s
  | andN => exact execAndN_answer s
  | xorR r => exact execXorR_answer r s
  | xorHl => exact execXorHl_answer s
  | xorN => exact execXorN_answer s
  | orR r => exact execOrR_answer r s
  | orHl => exact execOrHl_answer s
  | orN => exact execOrN_answer s
  | cpR r => exact execCpR_answer r s
  | cpHl => exact execCpHl_answer s
  | cpN => exact execCpN_answer s
  | incR rd => exact execIncR_answer rd s
  | incHl => exact execIncHl_answer s
  | decR rd => exact execDecR_answer rd s
  | decHl => exact execDecHl_answer s
  | incRp p => exact execIncRp_answer p s
  | decRp p => exact execDecRp_answer p s
  | addHlRp p => exact execAddHlRp_answer p s
  | addSpE => exact execAddSpE_answer s
  | daa => exact execDaa_answer s
  | cpl => exact execCpl_answer s
  | scf => exact execScf_answer s
  | ccf => exact execCcf_answer s
  | rlca => exact execRlca_answer s
  | rrca => exact execRrca_answer s
  | rla => exact execRla_answer s
  | rra => exact execRra_answer s
  | jpNn => exact execJpNn_answer s
  | jpCcNn cc => exact execJpCcNn_answer cc s
  | jpHl => exact execJpHl_answer s
  | jrE => exact execJrE_answer s
  | jrCcE cc => exact execJrCcE_answer cc s
  | callNn => exact execCallNn_answer s
  | callCcNn cc => exact execCallCcNn_answer cc s
  | ret => exact execRet_answer s
  | retCc cc => exact execRetCc_answer cc s
  | rst t => exact execRst_answer t s
  | pushRr q => exact execPushRr_answer q s
  | pushAf => exact execPushAf_answer s
  | popRr q => exact execPopRr_answer q s
  | popAf => exact execPopAf_answer s
  | illegalD3 => exact execIllegalD3_answer s
  | illegalDB => exact execIllegalDB_answer s
  | illegalDD => exact execIllegalDD_answer s
  | illegalE3 => exact execIllegalE3_answer s
  | illegalE4 => exact execIllegalE4_answer s
  | illegalEB => exact execIllegalEB_answer s
  | illegalEC => exact execIllegalEC_answer s
  | illegalED => exact execIllegalED_answer s
  | illegalF4 => exact execIllegalF4_answer s
  | illegalFC => exact execIllegalFC_answer s
  | illegalFD => exact execIllegalFD_answer s
  | rlcR r => exact execRlcR_answer r s
  | rlcHl => exact execRlcHl_answer s
  | rrcR r => exact execRrcR_answer r s
  | rrcHl => exact execRrcHl_answer s
  | rlR r => exact execRlR_answer r s
  | rlHl => exact execRlHl_answer s
  | rrR r => exact execRrR_answer r s
  | rrHl => exact execRrHl_answer s
  | slaR r => exact execSlaR_answer r s
  | slaHl => exact execSlaHl_answer s
  | sraR r => exact execSraR_answer r s
  | sraHl => exact execSraHl_answer s
  | swapR r => exact execSwapR_answer r s
  | swapHl => exact execSwapHl_answer s
  | srlR r => exact execSrlR_answer r s
  | srlHl => exact execSrlHl_answer s
  | bitR n r => exact execBitR_answer n r s
  | bitHl n => exact execBitHl_answer n s
  | resR n r => exact execResR_answer n r s
  | resHl n => exact execResHl_answer n s
  | setR n r => exact execSetR_answer n r s
  | setHl n => exact execSetHl_answer n s

/-- A row of the prefixed table never raises. -/
theorem exec_completed_of_isPrefixed (i : Instr) (s : State) (hi : i.isPrefixed = true) :
    ∃ t, exec i s = .next t ∧ Completed 1 s t := by
  obtain ⟨t, ht, hc | ⟨kind, op, ⟨he, -⟩, -⟩⟩ := exec_answer_of_not_prefix i s (by rintro rfl; cases hi)
  · exact ⟨t, ht, by simpa [readBudget, hi] using hc⟩
  · have := congrArg List.length he
    rw [encode_length, hi] at this
    cases this

/-- Everything `exec` can answer. -/
theorem exec_answer (i : Instr) (s : State) : Answer i s (exec i s) := by
  by_cases hi : i = .prefixCb
  · subst hi
    change Answer _ _ (execPrefixCb s)
    rw [execPrefixCb_eq]
    obtain ⟨t, ht, h1, h2, h3, l, hb, hm, ho, hc, ha⟩ :=
      exec_completed_of_isPrefixed _ (s.saw [.read (s.pc + 1) (s.answer 0 (s.pc + 1))]) (prefixedRow_isPrefixed _)
    refine ⟨t, ht, .inl ⟨h1, h2, h3, .read (s.pc + 1) (s.answer 0 (s.pc + 1)) :: l, ?_, hm, ?_, ?_, rfl, ?_⟩⟩
    · simpa using hb
    · exact ordered_mono (n := 2) (by decide) ho
    · rw [hc]; simp; omega
    · exact answered_shift (State.saw_answer s _) ha
  · exact exec_answer_of_not_prefix i s hi

end Sys2Proof.Machine
end

