-- ==== Sys2Proof/Laws/PerInstr.lean ====
section
/-! SUPPORT. The statements made of every instruction as syntax, one lemma per constructor. -/

namespace Sys2Proof.Laws.EncodedWidth

/-- The opcode bytes of an instruction are two, the first of them 0xCB, exactly for the prefixed rows, and one
otherwise; with its immediates it is one to three bytes long (spec/30_encoding.md R80, R81). -/
def Statement (i : Instr) : Prop :=
  (encode i).length = (if i.isPrefixed then 2 else 1) ∧
  (i.isPrefixed = true → (encode i).head? = some 0xCB) ∧
  i.length = (encode i).length + i.immBytes ∧
  decide (1 ≤ i.length ∧ i.length ≤ 3) = true

/-- A row of the unprefixed table. -/
theorem of_unprefixed {i : Instr} (hp : i.isPrefixed = false) (hl : (encode i).length = 1)
    (hb : decide (i.immBytes ≤ 2) = true) : Statement i := by
  have := of_decide_eq_true hb
  refine ⟨by simp [hp, hl], by simp [hp], by simp [Instr.length, hp, hl], ?_⟩
  simp only [Instr.length, hp, decide_eq_true_eq, Bool.false_eq_true, if_false]
  omega

/-- A row of the prefixed table. -/
theorem of_prefixed {i : Instr} (hp : i.isPrefixed = true) (hl : (encode i).length = 2)
    (hh : (encode i).head? = some 0xCB) (hb : i.immBytes = 0) : Statement i := by
  refine ⟨by simp [hp, hl], fun _ => hh, by simp [Instr.length, hp, hl], ?_⟩
  simp [Instr.length, hp, hb]

theorem nop : Statement .nop := of_unprefixed rfl rfl rfl
theorem stop : Statement .stop := of_unprefixed rfl rfl rfl
theorem halt : Statement .halt := of_unprefixed rfl rfl rfl
theorem di : Statement .di := of_unprefixed rfl rfl rfl
theorem ei : Statement .ei := of_unprefixed rfl rfl rfl
theorem reti : Statement .reti := of_unprefixed rfl rfl rfl
theorem prefixCb : Statement .prefixCb := of_unprefixed rfl rfl rfl
theorem ldRR (rd rs : Reg8) : Statement (.ldRR rd rs) := of_unprefixed rfl rfl rfl
theorem ldRN (rd : Reg8) : Statement (.ldRN rd) := of_unprefixed rfl rfl rfl
theorem ldRHl (rd : Reg8) : Statement (.ldRHl rd) := of_unprefixed rfl rfl rfl
theorem ldHlR (rs : Reg8) : Statement (.ldHlR rs) := of_unprefixed rfl rfl rfl
theorem ldHlN : Statement .ldHlN := of_unprefixed rfl rfl rfl
theorem ldABc : Statement .ldABc := of_unprefixed rfl rfl rfl
theorem ldADe : Statement .ldADe := of_unprefixed rfl rfl rfl
theorem ldBcA : Statement .ldBcA := of_unprefixed rfl rfl rfl
theorem ldDeA : Statement .ldDeA := of_unprefixed rfl rfl rfl
theorem ldAHli : Statement .ldAHli := of_unprefixed rfl rfl rfl
theorem ldAHld : Statement .ldAHld := of_unprefixed rfl rfl rfl
theorem ldHliA : Statement .ldHliA := of_unprefixed rfl rfl rfl
theorem ldHldA : Statement .ldHldA := of_unprefixed rfl rfl rfl
theorem ldANn : Statement .ldANn := of_unprefixed rfl rfl rfl
theorem ldNnA : Statement .ldNnA := of_unprefixed rfl rfl rfl
theorem ldhAN : Statement .ldhAN := of_unprefixed rfl rfl rfl
theorem ldhNA : Statement .ldhNA := of_unprefixed rfl rfl rfl
theorem ldhAC : Statement .ldhAC := of_unprefixed rfl rfl rfl
theorem ldhCA : Statement .ldhCA := of_unprefixed rfl rfl rfl
theorem ldRpNn (p : Rp) : Statement (.ldRpNn p) := of_unprefixed rfl rfl rfl
theorem ldSpHl : Statement .ldSpHl := of_unprefixed rfl rfl rfl
theorem ldHlSpE : Statement .ldHlSpE := of_unprefixed rfl rfl rfl
theorem ldNnSp : Statement .ldNnSp := of_unprefixed rfl rfl rfl
theorem addAR (rs : Reg8) : Statement (.addAR rs) := of_unprefixed rfl rfl rfl
theorem addAHl : Statement .addAHl := of_unprefixed rfl rfl rfl
theorem addAN : Statement .addAN := of_unprefixed rfl rfl rfl
theorem adcAR (rs : Reg8) : Statement (.adcAR rs) := of_unprefixed rfl rfl rfl
theorem adcAHl : Statement .adcAHl := of_unprefixed rfl rfl rfl
theorem adcAN : Statement .adcAN := of_unprefixed rfl rfl rfl
theorem subR (rs : Reg8) : Statement (.subR rs) := of_unprefixed rfl rfl rfl
theorem subHl : Statement .subHl := of_unprefixed rfl rfl rfl
theorem subN : Statement .subN := of_unprefixed rfl rfl rfl
theorem sbcAR (rs : Reg8) : Statement (.sbcAR rs) := of_unprefixed rfl rfl rfl
theorem sbcAHl : Statement .sbcAHl := of_unprefixed rfl rfl rfl
theorem sbcAN : Statement .sbcAN := of_unprefixed rfl rfl rfl
theorem andR (rs : Reg8) : Statement (.andR rs) := of_unprefixed rfl rfl rfl
theorem andHl : Statement .andHl := of_unprefixed rfl rfl rfl
theorem andN : Statement .andN := of_unprefixed rfl rfl rfl
theorem xorR (rs : Reg8) : Statement (.xorR rs) := of_unprefixed rfl rfl rfl
theorem xorHl : Statement .xorHl := of_unprefixed rfl rfl rfl
theorem xorN : Statement .xorN := of_unprefixed rfl rfl rfl
theorem orR (rs : Reg8) : Statement (.orR rs) := of_unprefixed rfl rfl rfl
theorem orHl : Statement .orHl := of_unprefixed rfl rfl rfl
theorem orN : Statement .orN := of_unprefixed rfl rfl rfl
theorem cpR (rs : Reg8) : Statement (.cpR rs) := of_unprefixed rfl rfl rfl
theorem cpHl : Statement .cpHl := of_unprefixed rfl rfl rfl
theorem cpN : Statement .cpN := of_unprefixed rfl rfl rfl
theorem incR (rd : Reg8) : Statement (.incR rd) := of_unprefixed rfl rfl rfl
theorem incHl : Statement .incHl := of_unprefixed rfl rfl rfl
theorem decR (rd : Reg8) : Statement (.decR rd) := of_unprefixed rfl rfl rfl
theorem decHl : Statement .decHl := of_unprefixed rfl rfl rfl
theorem incRp (p : Rp) : Statement (.incRp p) := of_unprefixed rfl rfl rfl
theorem decRp (p : Rp) : Statement (.decRp p) := of_unprefixed rfl rfl rfl
theorem addHlRp (p : Rp) : Statement (.addHlRp p) := of_unprefixed rfl rfl rfl
theorem addSpE : Statement .addSpE := of_unprefixed rfl rfl rfl
theorem daa : Statement .daa := of_unprefixed rfl rfl rfl
theorem cpl : Statement .cpl := of_unprefixed rfl rfl rfl
theorem scf : Statement .scf := of_unprefixed rfl rfl rfl
theorem ccf : Statement .ccf := of_unprefixed rfl rfl rfl
theorem rlca : Statement .rlca := of_unprefixed rfl rfl rfl
theorem rrca : Statement .rrca := of_unprefixed rfl rfl rfl
theorem rla : Statement .rla := of_unprefixed rfl rfl rfl
theorem rra : Statement .rra := of_unprefixed rfl rfl rfl
theorem jpNn : Statement .jpNn := of_unprefixed rfl rfl rfl
theorem jpCcNn (cc : Cond) : Statement (.jpCcNn cc) := of_unprefixed rfl rfl rfl
theorem jpHl : Statement .jpHl := of_unprefixed rfl rfl rfl
theorem jrE : Statement .jrE := of_unprefixed rfl rfl rfl
theorem jrCcE (cc : Cond) : Statement (.jrCcE cc) := of_unprefixed rfl rfl rfl
theorem callNn : Statement .callNn := of_unprefixed rfl rfl rfl
theorem callCcNn (cc : Cond) : Statement (.callCcNn cc) := of_unprefixed rfl rfl rfl
theorem ret : Statement .ret := of_unprefixed rfl rfl rfl
theorem retCc (cc : Cond) : Statement (.retCc cc) := of_unprefixed rfl rfl rfl
theorem rst (t : Fin 8) : Statement (.rst t) := of_unprefixed rfl rfl rfl
theorem pushRr (q : Rp2) : Statement (.pushRr q) := of_unprefixed rfl rfl rfl
theorem pushAf : Statement .pushAf := of_unprefixed rfl rfl rfl
theorem popRr (q : Rp2) : Statement (.popRr q) := of_unprefixed rfl rfl rfl
theorem popAf : Statement .popAf := of_unprefixed rfl rfl rfl
theorem illegalD3 : Statement .illegalD3 := of_unprefixed rfl rfl rfl
theorem illegalDB : Statement .illegalDB := of_unprefixed rfl rfl rfl
theorem illegalDD : Statement .illegalDD := of_unprefixed rfl rfl rfl
theorem illegalE3 : Statement .illegalE3 := of_unprefixed rfl rfl rfl
theorem illegalE4 : Statement .illegalE4 := of_unprefixed rfl rfl rfl
theorem illegalEB : Statement .illegalEB := of_unprefixed rfl rfl rfl
theorem illegalEC : Statement .illegalEC := of_unprefixed rfl rfl rfl
theorem illegalED : Statement .illegalED := of_unprefixed rfl rfl rfl
theorem illegalF4 : Statement .illegalF4 := of_unprefixed rfl rfl rfl
theorem illegalFC : Statement .illegalFC := of_unprefixed rfl rfl rfl
theorem illegalFD : Statement .illegalFD := of_unprefixed rfl rfl rfl
theorem rlcR (rs : Reg8) : Statement (.rlcR rs) := of_prefixed rfl rfl rfl rfl
theorem rlcHl : Statement .rlcHl := of_prefixed rfl rfl rfl rfl
theorem rrcR (rs : Reg8) : Statement (.rrcR rs) := of_prefixed rfl rfl rfl rfl
theorem rrcHl : Statement .rrcHl := of_prefixed rfl rfl rfl rfl
theorem rlR (rs : Reg8) : Statement (.rlR rs) := of_prefixed rfl rfl rfl rfl
theorem rlHl : Statement .rlHl := of_prefixed rfl rfl rfl rfl
theorem rrR (rs : Reg8) : Statement (.rrR rs) := of_prefixed rfl rfl rfl rfl
theorem rrHl : Statement .rrHl := of_prefixed rfl rfl rfl rfl
theorem slaR (rs : Reg8) : Statement (.slaR rs) := of_prefixed rfl rfl rfl rfl
theorem slaHl : Statement .slaHl := of_prefixed rfl rfl rfl rfl
theorem sraR (rs : Reg8) : Statement (.sraR rs) := of_prefixed rfl rfl rfl rfl
theorem sraHl : Statement .sraHl := of_prefixed rfl rfl rfl rfl
theorem swapR (rs : Reg8) : Statement (.swapR rs) := of_prefixed rfl rfl rfl rfl
theorem swapHl : Statement .swapHl := of_prefixed rfl rfl rfl rfl
theorem srlR (rs : Reg8) : Statement (.srlR rs) := of_prefixed rfl rfl rfl rfl
theorem srlHl : Statement .srlHl := of_prefixed rfl rfl rfl rfl
theorem bitR (i : Fin 8) (rs : Reg8) : Statement (.bitR i rs) := of_prefixed rfl rfl rfl rfl
theorem bitHl (i : Fin 8) : Statement (.bitHl i) := of_prefixed rfl rfl rfl rfl
theorem resR (i : Fin 8) (rs : Reg8) : Statement (.resR i rs) := of_prefixed rfl rfl rfl rfl
theorem resHl (i : Fin 8) : Statement (.resHl i) := of_prefixed rfl rfl rfl rfl
theorem setR (i : Fin 8) (rs : Reg8) : Statement (.setR i rs) := of_prefixed rfl rfl rfl rfl
theorem setHl (i : Fin 8) : Statement (.setHl i) := of_prefixed rfl rfl rfl rfl

end Sys2Proof.Laws.EncodedWidth
end

