-- ==== Sys2Proof/Tests/Slice0.lean ====
section
/-! SUPPORT. The model's own tests. Expected values come from the spec: encodings from the `Encoding:` lines of the
instruction rules, step results from the vectors of spec/95_test_vectors.md (each test names its vector). After them,
one witness for every statement that has hypotheses. -/

namespace Sys2Proof.Tests

open Sys2Proof.Machine

/-! ### WellFormed: an ill-formed term for each check -/

theorem test_ill_formed_push_af_code : (Instr.pushRr .af).wellFormed = false := by decide
theorem test_ill_formed_pop_af_code : (Instr.popRr .af).wellFormed = false := by decide
theorem test_ill_formed_marker : Instr.prefixCb.wellFormed = false := by decide
theorem test_ill_formed_no_mapping : ∀ i ∈ ([.illegalD3, .illegalDB, .illegalDD, .illegalE3, .illegalE4, .illegalEB,
    .illegalEC, .illegalED, .illegalF4, .illegalFC, .illegalFD] : List Instr), i.wellFormed = false := by decide
theorem test_well_formed : ∀ i ∈ ([.nop, .stop, .pushRr .hl, .popRr .bc, .pushAf, .bitHl 7] : List Instr),
    i.wellFormed = true := by decide

/-! ### Decoding: one word per constructor, field by field from the encodings of the rules -/

theorem test_decode_orchestrator :
    decodeTableWord 8 0b00000000 = some .nop ∧
    decodeTableWord 16 (0x5A00 + 0b00010000) = some .stop ∧
    decodeTableWord 8 0b01110110 = some .halt ∧
    decodeTableWord 8 0b11110011 = some .di ∧
    decodeTableWord 8 0b11111011 = some .ei ∧
    decodeTableWord 8 0b11011001 = some .reti ∧
    decodeTableWord 8 0b11001011 = some .prefixCb := by decide

theorem test_decode_loads_1 :
    decodeTableWord 8 0b01_001_101 = some (.ldRR .c .l) ∧
    decodeTableWord 16 (0x5A00 + 0b00_011_110) = some (.ldRN .e) ∧
    decodeTableWord 8 0b01_111_110 = some (.ldRHl .a) ∧
    decodeTableWord 8 0b01110_010 = some (.ldHlR .d) ∧
    decodeTableWord 16 (0x5A00 + 0b00110110) = some .ldHlN ∧
    decodeTableWord 8 0b00001010 = some .ldABc ∧
    decodeTableWord 8 0b00011010 = some .ldADe ∧
    decodeTableWord 8 0b00000010 = some .ldBcA ∧
    decodeTableWord 8 0b00010010 = some .ldDeA ∧
    decodeTableWord 8 0b00101010 = some .ldAHli ∧
    decodeTableWord 8 0b00111010 = some .ldAHld ∧
    decodeTableWord 8 0b00100010 = some .ldHliA := by decide

theorem test_decode_loads_2 :
    decodeTableWord 8 0b00110010 = some .ldHldA ∧
    decodeTableWord 24 (0x125A00 + 0b11111010) = some .ldANn ∧
    decodeTableWord 24 (0x125A00 + 0b11101010) = some .ldNnA ∧
    decodeTableWord 16 (0x5A00 + 0b11110000) = some .ldhAN ∧
    decodeTableWord 16 (0x5A00 + 0b11100000) = some .ldhNA ∧
    decodeTableWord 8 0b11110010 = some .ldhAC ∧
    decodeTableWord 8 0b11100010 = some .ldhCA ∧
    decodeTableWord 24 (0x125A00 + 0b00_00_0001) = some (.ldRpNn .bc) ∧
    decodeTableWord 8 0b11111001 = some .ldSpHl ∧
    decodeTableWord 16 (0x5A00 + 0b11111000) = some .ldHlSpE ∧
    decodeTableWord 24 (0x125A00 + 0b00001000) = some .ldNnSp := by decide

theorem test_decode_alu_two_operands_1 :
    decodeTableWord 8 0b10000_000 = some (.addAR .b) ∧
    decodeTableWord 8 0b10000110 = some .addAHl ∧
    decodeTableWord 16 (0x5A00 + 0b11000110) = some .addAN ∧
    decodeTableWord 8 0b10001_001 = some (.adcAR .c) ∧
    decodeTableWord 8 0b10001110 = some .adcAHl ∧
    decodeTableWord 16 (0x5A00 + 0b11001110) = some .adcAN ∧
    decodeTableWord 8 0b10010_101 = some (.subR .l) ∧
    decodeTableWord 8 0b10010110 = some .subHl ∧
    decodeTableWord 16 (0x5A00 + 0b11010110) = some .subN ∧
    decodeTableWord 8 0b10011_011 = some (.sbcAR .e) ∧
    decodeTableWord 8 0b10011110 = some .sbcAHl ∧
    decodeTableWord 16 (0x5A00 + 0b11011110) = some .sbcAN := by decide

theorem test_decode_alu_two_operands_2 :
    decodeTableWord 8 0b10100_111 = some (.andR .a) ∧
    decodeTableWord 8 0b10100110 = some .andHl ∧
    decodeTableWord 16 (0x5A00 + 0b11100110) = some .andN ∧
    decodeTableWord 8 0b10101_010 = some (.xorR .d) ∧
    decodeTableWord 8 0b10101110 = some .xorHl ∧
    decodeTableWord 16 (0x5A00 + 0b11101110) = some .xorN ∧
    decodeTableWord 8 0b10110_100 = some (.orR .h) ∧
    decodeTableWord 8 0b10110110 = some .orHl ∧
    decodeTableWord 16 (0x5A00 + 0b11110110) = some .orN ∧
    decodeTableWord 8 0b10111_000 = some (.cpR .b) ∧
    decodeTableWord 8 0b10111110 = some .cpHl ∧
    decodeTableWord 16 (0x5A00 + 0b11111110) = some .cpN := by decide

theorem test_decode_alu_one_operand :
    decodeTableWord 8 0b00_001_100 = some (.incR .c) ∧
    decodeTableWord 8 0b00110100 = some .incHl ∧
    decodeTableWord 8 0b00_101_101 = some (.decR .l) ∧
    decodeTableWord 8 0b00110101 = some .decHl ∧
    decodeTableWord 8 0b00_11_0011 = some (.incRp .sp) ∧
    decodeTableWord 8 0b00_11_1011 = some (.decRp .sp) ∧
    decodeTableWord 8 0b00_10_1001 = some (.addHlRp .hl) ∧
    decodeTableWord 16 (0x5A00 + 0b11101000) = some .addSpE ∧
    decodeTableWord 8 0b00100111 = some .daa ∧
    decodeTableWord 8 0b00101111 = some .cpl ∧
    decodeTableWord 8 0b00110111 = some .scf ∧
    decodeTableWord 8 0b00111111 = some .ccf := by decide

theorem test_decode_accumulator_rotates :
    decodeTableWord 8 0b00000111 = some .rlca ∧
    decodeTableWord 8 0b00001111 = some .rrca ∧
    decodeTableWord 8 0b00010111 = some .rla ∧
    decodeTableWord 8 0b00011111 = some .rra := by decide

theorem test_decode_control_flow_1 :
    decodeTableWord 24 (0x125A00 + 0b11000011) = some .jpNn ∧
    decodeTableWord 24 (0x125A00 + 0b110_00_010) = some (.jpCcNn .nz) ∧
    decodeTableWord 8 0b11101001 = some .jpHl ∧
    decodeTableWord 16 (0x5A00 + 0b00011000) = some .jrE ∧
    decodeTableWord 16 (0x5A00 + 0b001_00_000) = some (.jrCcE .nz) ∧
    decodeTableWord 24 (0x125A00 + 0b11001101) = some .callNn ∧
    decodeTableWord 24 (0x125A00 + 0b110_01_100) = some (.callCcNn .z) ∧
    decodeTableWord 8 0b11001001 = some .ret ∧
    decodeTableWord 8 0b110_01_000 = some (.retCc .z) ∧
    decodeTableWord 8 0b11_011_111 = some (.rst 3) ∧
    decodeTableWord 8 0b11_10_0101 = some (.pushRr .hl) ∧
    decodeTableWord 8 0b11110101 = some .pushAf := by decide

theorem test_decode_control_flow_2 :
    decodeTableWord 8 0b11_00_0001 = some (.popRr .bc) ∧
    decodeTableWord 8 0b11110001 = some .popAf := by decide

theorem test_decode_no_mapping :
    decodeTableWord 8 0b11010011 = some .illegalD3 ∧
    decodeTableWord 8 0b11011011 = some .illegalDB ∧
    decodeTableWord 8 0b11011101 = some .illegalDD ∧
    decodeTableWord 8 0b11100011 = some .illegalE3 ∧
    decodeTableWord 8 0b11100100 = some .illegalE4 ∧
    decodeTableWord 8 0b11101011 = some .illegalEB ∧
    decodeTableWord 8 0b11101100 = some .illegalEC ∧
    decodeTableWord 8 0b11101101 = some .illegalED ∧
    decodeTableWord 8 0b11110100 = some .illegalF4 ∧
    decodeTableWord 8 0b11111100 = some .illegalFC ∧
    decodeTableWord 8 0b11111101 = some .illegalFD := by decide

theorem test_decode_prefixed_rotates_and_shifts_1 :
    decodeTableWord 16 (256 * 0b00000_000 + 0xCB) = some (.rlcR .b) ∧
    decodeTableWord 16 (256 * 0b00000110 + 0xCB) = some .rlcHl ∧
    decodeTableWord 16 (256 * 0b00001_001 + 0xCB) = some (.rrcR .c) ∧
    decodeTableWord 16 (256 * 0b00001110 + 0xCB) = some .rrcHl ∧
    decodeTableWord 16 (256 * 0b00010_101 + 0xCB) = some (.rlR .l) ∧
    decodeTableWord 16 (256 * 0b00010110 + 0xCB) = some .rlHl ∧
    decodeTableWord 16 (256 * 0b00011_011 + 0xCB) = some (.rrR .e) ∧
    decodeTableWord 16 (256 * 0b00011110 + 0xCB) = some .rrHl ∧
    decodeTableWord 16 (256 * 0b00100_111 + 0xCB) = some (.slaR .a) ∧
    decodeTableWord 16 (256 * 0b00100110 + 0xCB) = some .slaHl ∧
    decodeTableWord 16 (256 * 0b00101_010 + 0xCB) = some (.sraR .d) ∧
    decodeTableWord 16 (256 * 0b00101110 + 0xCB) = some .sraHl := by decide

theorem test_decode_prefixed_rotates_and_shifts_2 :
    decodeTableWord 16 (256 * 0b00110_100 + 0xCB) = some (.swapR .h) ∧
    decodeTableWord 16 (256 * 0b00110110 + 0xCB) = some .swapHl ∧
    decodeTableWord 16 (256 * 0b00111_000 + 0xCB) = some (.srlR .b) ∧
    decodeTableWord 16 (256 * 0b00111110 + 0xCB) = some .srlHl := by decide

theorem test_decode_prefixed_bits :
    decodeTableWord 16 (256 * 0b01_001_101 + 0xCB) = some (.bitR 1 .l) ∧
    decodeTableWord 16 (256 * 0b01_011_110 + 0xCB) = some (.bitHl 3) ∧
    decodeTableWord 16 (256 * 0b10_111_010 + 0xCB) = some (.resR 7 .d) ∧
    decodeTableWord 16 (256 * 0b10_100_110 + 0xCB) = some (.resHl 4) ∧
    decodeTableWord 16 (256 * 0b11_000_001 + 0xCB) = some (.setR 0 .c) ∧
    decodeTableWord 16 (256 * 0b11_101_110 + 0xCB) = some (.setHl 5) := by decide

/-- A byte list with no byte holds no row; immediates stay in the rest. -/
theorem test_decode_rest : decode [] = .error .noByte ∧ decode [0xC3, 0x34, 0x12] = .ok (.jpNn, [0x34, 0x12]) ∧
    decode [0xCB, 0xCB, 0x00] = .ok (.setR 1 .e, [0x00]) := by decide

/-! ### One step each, from the vectors of spec/95_test_vectors.md -/

/-- A block at 0x0100 with zero registers and empty memory. -/
def cpu : State := { State.reset with pc := 0x0100 }

/-- `bytes` stored from address `a` on. -/
def stored (a : Word) : List Byte → State → State
  | [], s => s
  | v :: vs, s => stored (a + 1) vs (s.poke a v)

/-- The state after one step of `s` with `bytes` at its `pc`; `s` itself where the step answers no next state. -/
def after (bytes : List Byte) (s : State) : State :=
  match step (stored s.pc bytes s) with
  | .next t => t
  | _ => s

/-- V-SYS-09. -/
theorem test_nop :
    let t := after [0x00] { cpu with pc := 0xFFFF }
    (t.pc, t.report) = (0x0000, .completed 4 .nop) := by decide

/-- V-SYS-06. -/
theorem test_stop_fault :
    let t := after [0x10, 0x00] cpu
    (t.latch, t.a, t.pc) = (some ⟨.unimplementedOperand, 0x10, false, 0x0100⟩, 0x00, 0x0100) := by decide

/-- V-SYS-02. -/
theorem test_halt :
    let t := after [0x76] cpu
    (t.pc, t.report) = (0x0101, .completed 4 .halt) := by decide

/-- V-SYS-03. -/
theorem test_di :
    let t := after [0xF3] cpu
    (t.pc, t.report) = (0x0101, .completed 4 .di) := by decide

/-- V-SYS-04. -/
theorem test_ei :
    let t := after [0xFB] cpu
    (t.pc, t.report) = (0x0101, .completed 4 .ei) := by decide

/-- V-SYS-05. -/
theorem test_reti :
    let t := after [0xD9] (({ cpu with sp := 0xFFFC }.poke 0xFFFC 0x34).poke 0xFFFD 0x12)
    (t.pc, t.report) = (0x0101, .completed 16 .reti) := by decide

/-- V-BIT-34. -/
theorem test_prefixCb :
    let t := after [0xCB] ({ cpu with pc := 0xFFFF, b := 0x01, f := flagsOfByte 0x00 }.poke 0x0000 0x00)
    (t.b, t.f) = (0x02, ⟨false, false, false, false⟩) := by decide

/-- V-LD-02. -/
theorem test_ldRR :
    let t := after [0x65] { cpu with h := 0x12, l := 0xAB, f := flagsOfByte 0x00 }
    (t.h, t.f) = (0xAB, ⟨false, false, false, false⟩) := by decide

/-- V-LD-03. -/
theorem test_ldRN :
    let t := after [0x1E, 0x7F] { cpu with f := flagsOfByte 0xA0 }
    (t.e, t.f) = (0x7F, ⟨true, false, true, false⟩) := by decide

/-- V-LD-05. -/
theorem test_ldRHl :
    let t := after [0x6E] ({ cpu with h := 0xC1, l := 0x23 }.poke 0xC123 0x44)
    (t.l, t.f) = (0x44, ⟨false, false, false, false⟩) := by decide

/-- V-LD-06. -/
theorem test_ldHlR :
    let t := after [0x74] { cpu with h := 0xC1, l := 0x23 }
    (t.f, t.byteAt 0xC123) = (⟨false, false, false, false⟩, 0xC1) := by decide

/-- V-LD-07. -/
theorem test_ldHlN :
    let t := after [0x36, 0xEE] { cpu with h := 0xC0, l := 0x00 }
    (t.f, t.byteAt 0xC000) = (⟨false, false, false, false⟩, 0xEE) := by decide

/-- V-LD-08. -/
theorem test_ldABc :
    let t := after [0x0A] ({ cpu with b := 0xC0, c := 0x01 }.poke 0xC001 0x11)
    (t.a, t.f) = (0x11, ⟨false, false, false, false⟩) := by decide

/-- V-LD-09. -/
theorem test_ldDeA :
    let t := after [0x12] { cpu with a := 0x77, d := 0xC0, e := 0x02 }
    (t.f, t.byteAt 0xC002) = (⟨false, false, false, false⟩, 0x77) := by decide

/-- V-LD-10. -/
theorem test_ldAHli :
    let t := after [0x2A] ({ cpu with h := 0xFF, l := 0xFF }.poke 0xFFFF 0x21)
    (t.a, t.h, t.l, t.f) = (0x21, 0x00, 0x00, ⟨false, false, false, false⟩) := by decide

/-- V-LD-11. -/
theorem test_ldAHld :
    let t := after [0x3A] ({ cpu with h := 0x00, l := 0x00 }.poke 0x0000 0x3A)
    (t.a, t.h, t.l, t.f) = (0x3A, 0xFF, 0xFF, ⟨false, false, false, false⟩) := by decide

/-- V-LD-12. -/
theorem test_ldHliA :
    let t := after [0x22] { cpu with a := 0x56, h := 0xC0, l := 0xFF }
    (t.h, t.l, t.f, t.byteAt 0xC0FF) = (0xC1, 0x00, ⟨false, false, false, false⟩, 0x56) := by decide

/-- V-LD-13. -/
theorem test_ldHldA :
    let t := after [0x32] { cpu with a := 0x56, h := 0xC1, l := 0x00 }
    (t.h, t.l, t.f, t.byteAt 0xC100) = (0xC0, 0xFF, ⟨false, false, false, false⟩, 0x56) := by decide

/-- V-LD-30. -/
theorem test_ldANn :
    let t := after [0xFA] ((({ cpu with pc := 0xFFFF }.poke 0x0000 0x00).poke 0x0001 0xC0).poke 0xC000 0x77)
    (t.a, t.f) = (0x77, ⟨false, false, false, false⟩) := by decide

/-- V-LD-15. -/
theorem test_ldNnA :
    let t := after [0xEA, 0x00, 0xD0] { cpu with a := 0x42 }
    (t.f, t.byteAt 0xD000) = (⟨false, false, false, false⟩, 0x42) := by decide

/-- V-LD-16. -/
theorem test_ldhAN :
    let t := after [0xF0, 0x80] (cpu.poke 0xFF80 0x5D)
    (t.a, t.f) = (0x5D, ⟨false, false, false, false⟩) := by decide

/-- V-LD-17. -/
theorem test_ldhNA :
    let t := after [0xE0, 0xFF] { cpu with a := 0x1F }
    (t.f, t.byteAt 0xFFFF) = (⟨false, false, false, false⟩, 0x1F) := by decide

/-- V-LD-18. -/
theorem test_ldhAC :
    let t := after [0xF2] ({ cpu with c := 0x44 }.poke 0xFF44 0x90)
    (t.a, t.f) = (0x90, ⟨false, false, false, false⟩) := by decide

/-- V-LD-19. -/
theorem test_ldhCA :
    let t := after [0xE2] { cpu with a := 0x33, c := 0x00 }
    (t.f, t.byteAt 0xFF00) = (⟨false, false, false, false⟩, 0x33) := by decide

/-- V-LD-20. -/
theorem test_ldRpNn :
    let t := after [0x01, 0x34, 0x12] { cpu with f := flagsOfByte 0xF0 }
    (t.b, t.c, t.f) = (0x12, 0x34, ⟨true, true, true, true⟩) := by decide

/-- V-LD-22. -/
theorem test_ldSpHl :
    let t := after [0xF9] { cpu with h := 0xCF, l := 0xFF, sp := 0x0000, f := flagsOfByte 0xF0 }
    (t.sp, t.f) = (0xCFFF, ⟨true, true, true, true⟩) := by decide

/-- V-LD-27. -/
theorem test_ldHlSpE :
    let t := after [0xF8, 0x80] { cpu with sp := 0x0080, h := 0xAA, l := 0xAA, f := flagsOfByte 0x00 }
    (t.h, t.l, t.f) = (0x00, 0x00, ⟨false, false, false, true⟩) := by decide

/-- V-LD-29. -/
theorem test_ldNnSp :
    let t := after [0x08, 0xFF, 0xFF] { cpu with sp := 0x1234 }
    (t.f, t.byteAt 0xFFFF, t.byteAt 0x0000) = (⟨false, false, false, false⟩, 0x34, 0x12) := by decide

/-- V-ALU-04. -/
theorem test_addAR :
    let t := after [0x80] { cpu with a := 0xFF, b := 0x01, f := flagsOfByte 0x00 }
    (t.a, t.f) = (0x00, ⟨true, false, true, true⟩) := by decide

/-- V-ALU-63. -/
theorem test_addAHl :
    let t := after [0x86] ({ cpu with a := 0x0F, h := 0xC0, l := 0x00, f := flagsOfByte 0x00 }.poke 0xC000 0x01)
    (t.a, t.f) = (0x10, ⟨false, false, true, false⟩) := by decide

/-- V-ALU-64. -/
theorem test_addAHl_unwired :
    let t := after [0x86]
        ({ cpu with a := 0x0F, h := 0xC0, l := 0x00, f := flagsOfByte 0x00, params := { Config.resetParams with unwired := ⟨false, true, false⟩, addHlH := .bit11 } }.poke 0xC000 0x01)
    (t.latch, t.a, t.pc) = (some ⟨.unimplementedOperand, 0x86, false, 0x0100⟩, 0x0F, 0x0100) := by decide

/-- V-ALU-65. -/
theorem test_addAN :
    let t := after [0xC6, 0xFF] { cpu with a := 0x01, f := flagsOfByte 0x00 }
    (t.a, t.f) = (0x00, ⟨true, false, true, true⟩) := by decide

/-- V-ALU-66. -/
theorem test_addAN_unwired :
    let t := after [0xC6, 0xFF]
        { cpu with a := 0x01, f := flagsOfByte 0x00, params := { Config.resetParams with unwired := ⟨true, false, false⟩, addHlH := .bit11 } }
    (t.latch, t.a, t.pc) = (some ⟨.unimplementedOperand, 0xC6, false, 0x0100⟩, 0x01, 0x0100) := by decide

/-- V-ALU-09. -/
theorem test_adcAR :
    let t := after [0x88] { cpu with a := 0x00, b := 0xFF, f := flagsOfByte 0x10 }
    t.f = ⟨true, false, true, true⟩ := by decide

/-- V-ALU-13. -/
theorem test_subR :
    let t := after [0x90] { cpu with a := 0x00, b := 0x01, f := flagsOfByte 0x00 }
    (t.a, t.f) = (0xFF, ⟨false, true, true, true⟩) := by decide

/-- V-ALU-15. -/
theorem test_sbcAR :
    let t := after [0x98] { cpu with a := 0x00, b := 0xFF, f := flagsOfByte 0x10 }
    t.f = ⟨true, true, true, true⟩ := by decide

/-- V-ALU-70. -/
theorem test_sbcAHl :
    let t := after [0x9E] ({ cpu with a := 0x00, h := 0xC0, l := 0x00, f := flagsOfByte 0x10 }.poke 0xC000 0xFF)
    t.f = ⟨true, true, true, true⟩ := by decide

/-- V-ALU-23. -/
theorem test_andR :
    let t := after [0xA0] { cpu with a := 0xF0, b := 0x0F, f := flagsOfByte 0x10 }
    (t.a, t.f) = (0x00, ⟨true, false, true, false⟩) := by decide

/-- V-ALU-68. -/
theorem test_andN :
    let t := after [0xE6, 0x0F]
        { cpu with a := 0xF0, f := flagsOfByte 0x00, params := { Config.resetParams with unwired := ⟨false, true, false⟩, addHlH := .bit11 } }
    (t.a, t.f) = (0x00, ⟨true, false, true, false⟩) := by decide

/-- V-ALU-25. -/
theorem test_xorR :
    let t := after [0xA8] { cpu with a := 0xFF, b := 0x0F, f := flagsOfByte 0xF0 }
    (t.a, t.f) = (0xF0, ⟨false, false, false, false⟩) := by decide

/-- V-ALU-27. -/
theorem test_orR :
    let t := after [0xB1] { cpu with a := 0x5A, c := 0x03, f := flagsOfByte 0xF0 }
    (t.a, t.f) = (0x5B, ⟨false, false, false, false⟩) := by decide

/-- V-ALU-21. -/
theorem test_cpR :
    let t := after [0xB8] { cpu with a := 0x3C, b := 0x40, f := flagsOfByte 0x00 }
    t.f = ⟨false, true, false, true⟩ := by decide

/-- V-ALU-67. -/
theorem test_cpN :
    let t := after [0xFE, 0x90] { cpu with a := 0x90, f := flagsOfByte 0x00 }
    t.f = ⟨true, true, false, false⟩ := by decide

/-- V-ALU-30. -/
theorem test_incR :
    let t := after [0x2C] { cpu with h := 0x12, l := 0xFF, f := flagsOfByte 0x50 }
    (t.l, t.f) = (0x00, ⟨true, false, true, true⟩) := by decide

/-- V-ALU-34. -/
theorem test_incHl :
    let t := after [0x34] ({ cpu with h := 0xC0, l := 0x00, f := flagsOfByte 0x10 }.poke 0xC000 0xFF)
    (t.f, t.byteAt 0xC000) = (⟨true, false, true, true⟩, 0x00) := by decide

/-- V-ALU-69. -/
theorem test_incHl_unwired :
    let t := after [0x34]
        ({ cpu with h := 0xC0, l := 0x00, f := flagsOfByte 0x00, params := { Config.resetParams with unwired := ⟨false, false, true⟩, addHlH := .bit11 } }.poke 0xC000 0x41)
    (t.latch, t.a, t.pc) = (some ⟨.unimplementedOperand, 0x34, false, 0x0100⟩, 0x00, 0x0100) := by decide

/-- V-ALU-33. -/
theorem test_decR :
    let t := after [0x0D] { cpu with c := 0x10, f := flagsOfByte 0x90 }
    (t.c, t.f) = (0x0F, ⟨false, true, true, true⟩) := by decide

/-- V-ALU-35. -/
theorem test_decHl :
    let t := after [0x35] ({ cpu with h := 0xC0, l := 0x00, f := flagsOfByte 0x00 }.poke 0xC000 0x00)
    (t.f, t.byteAt 0xC000) = (⟨false, true, true, false⟩, 0xFF) := by decide

/-- V-ALU-36. -/
theorem test_incRp :
    let t := after [0x03] { cpu with b := 0xFF, c := 0xFF, f := flagsOfByte 0xF0 }
    (t.b, t.c, t.f) = (0x00, 0x00, ⟨true, true, true, true⟩) := by decide

/-- V-ALU-38. -/
theorem test_decRp :
    let t := after [0x2B] { cpu with h := 0x00, l := 0x00, f := flagsOfByte 0x00 }
    (t.h, t.l, t.f) = (0xFF, 0xFF, ⟨false, false, false, false⟩) := by decide

/-- V-ALU-40. -/
theorem test_addHlRp_bit11 :
    let t := after [0x09] { cpu with h := 0x0F, l := 0xFF, b := 0x00, c := 0x01, f := flagsOfByte 0x40 }
    (t.h, t.l, t.f) = (0x10, 0x00, ⟨false, false, true, false⟩) := by decide

/-- V-ALU-41. -/
theorem test_addHlRp_unchanged :
    let t := after [0x09]
        { cpu with h := 0x0F, l := 0xFF, b := 0x00, c := 0x01, f := flagsOfByte 0x40, params := { Config.resetParams with unwired := ⟨false, false, false⟩, addHlH := .unchanged } }
    (t.h, t.l, t.f) = (0x10, 0x00, ⟨false, false, false, false⟩) := by decide

/-- V-ALU-48. -/
theorem test_addSpE :
    let t := after [0xE8, 0x01] { cpu with sp := 0x00FF, f := flagsOfByte 0x00 }
    (t.sp, t.f) = (0x0100, ⟨false, false, true, true⟩) := by decide

/-- V-ALU-56. -/
theorem test_daa :
    let t := after [0x27] { cpu with a := 0x9A, f := flagsOfByte 0x70 }
    (t.a, t.f) = (0x34, ⟨false, true, false, true⟩) := by decide

/-- V-ALU-59. -/
theorem test_cpl :
    let t := after [0x2F] { cpu with a := 0xFF, f := flagsOfByte 0x00 }
    (t.a, t.f) = (0x00, ⟨false, true, true, false⟩) := by decide

/-- V-ALU-60. -/
theorem test_scf :
    let t := after [0x37] { cpu with f := flagsOfByte 0xE0 }
    t.f = ⟨true, false, false, true⟩ := by decide

/-- V-ALU-62. -/
theorem test_ccf :
    let t := after [0x3F] { cpu with f := flagsOfByte 0x60 }
    t.f = ⟨false, false, false, true⟩ := by decide

/-- V-BIT-01. -/
theorem test_rlca :
    let t := after [0x07] { cpu with a := 0x85, f := flagsOfByte 0xE0 }
    (t.a, t.f) = (0x0B, ⟨false, false, false, true⟩) := by decide

/-- V-BIT-03. -/
theorem test_rrca :
    let t := after [0x0F] { cpu with a := 0x3B, f := flagsOfByte 0x00 }
    (t.a, t.f) = (0x9D, ⟨false, false, false, true⟩) := by decide

/-- V-BIT-05. -/
theorem test_rla :
    let t := after [0x17] { cpu with a := 0x95, f := flagsOfByte 0x10 }
    (t.a, t.f) = (0x2B, ⟨false, false, false, true⟩) := by decide

/-- V-BIT-07. -/
theorem test_rra :
    let t := after [0x1F] { cpu with a := 0x81, f := flagsOfByte 0x10 }
    (t.a, t.f) = (0xC0, ⟨false, false, false, true⟩) := by decide

/-- V-CF-01. -/
theorem test_jpNn :
    let t := after [0xC3, 0x00, 0x80] { cpu with f := flagsOfByte 0xF0 }
    t.pc = 0x8000 := by decide

/-- V-CF-02. -/
theorem test_jpCcNn_taken :
    let t := after [0xC2, 0x00, 0x80] { cpu with f := flagsOfByte 0x00 }
    t.pc = 0x8000 := by decide

/-- V-CF-03. -/
theorem test_jpCcNn_not_taken :
    let t := after [0xC2, 0x00, 0x80] { cpu with f := flagsOfByte 0x80 }
    t.pc = 0x0103 := by decide

/-- V-CF-05. -/
theorem test_jpHl :
    let t := after [0xE9] { cpu with h := 0x80, l := 0x00 }
    t.pc = 0x8000 := by decide

/-- V-CF-10. -/
theorem test_jrE :
    let t := after [0x18, 0xFD] { cpu with pc := 0x0000 }
    t.pc = 0xFFFF := by decide

/-- V-CF-11. -/
theorem test_jrCcE_taken :
    let t := after [0x28, 0x05] { cpu with f := flagsOfByte 0x80 }
    t.pc = 0x0107 := by decide

/-- V-CF-12. -/
theorem test_jrCcE_not_taken :
    let t := after [0x28, 0x05] { cpu with f := flagsOfByte 0x00 }
    t.pc = 0x0102 := by decide

/-- V-CF-17. -/
theorem test_callNn :
    let t := after [0xCD, 0x00, 0x20] { cpu with pc := 0x8000, sp := 0x0001 }
    (t.sp, t.pc, t.byteAt 0x0000, t.byteAt 0xFFFF) = (0xFFFF, 0x2000, 0x80, 0x03) := by decide

/-- V-CF-16. -/
theorem test_callCcNn_taken :
    let t := after [0xD4, 0x34, 0x12] { cpu with pc := 0x8000, sp := 0xFFFE, f := flagsOfByte 0x00 }
    (t.sp, t.pc, t.byteAt 0xFFFD, t.byteAt 0xFFFC) = (0xFFFC, 0x1234, 0x80, 0x03) := by decide

/-- V-CF-15. -/
theorem test_callCcNn_not_taken :
    let t := after [0xCC, 0x34, 0x12] { cpu with pc := 0x8000, sp := 0xFFFE, f := flagsOfByte 0x00 }
    t.pc = 0x8003 := by decide

/-- V-CF-21. -/
theorem test_ret :
    let t := after [0xC9] (({ cpu with sp := 0xFFFF }.poke 0xFFFF 0x78).poke 0x0000 0x56)
    (t.sp, t.pc) = (0x0001, 0x5678) := by decide

/-- V-CF-19. -/
theorem test_retCc_taken :
    let t := after [0xC0] (({ cpu with sp := 0xFFFC, f := flagsOfByte 0x00 }.poke 0xFFFC 0x34).poke 0xFFFD 0x12)
    (t.sp, t.pc) = (0xFFFE, 0x1234) := by decide

/-- V-CF-20. -/
theorem test_retCc_not_taken :
    let t := after [0xC0] (({ cpu with sp := 0xFFFC, f := flagsOfByte 0x80 }.poke 0xFFFC 0x34).poke 0xFFFD 0x12)
    t.pc = 0x0101 := by decide

/-- V-CF-23. -/
theorem test_rst :
    let t := after [0xC7] { cpu with pc := 0xFFFF, sp := 0xD000 }
    (t.sp, t.pc, t.byteAt 0xCFFF, t.byteAt 0xCFFE) = (0xCFFE, 0x0000, 0x00, 0x00) := by decide

/-- V-CF-26. -/
theorem test_pushRr :
    let t := after [0xE5] { cpu with h := 0xBE, l := 0xEF, sp := 0x0000 }
    (t.sp, t.f, t.byteAt 0xFFFF, t.byteAt 0xFFFE) = (0xFFFE, ⟨false, false, false, false⟩, 0xBE, 0xEF) := by decide

/-- V-CF-25. -/
theorem test_pushAf :
    let t := after [0xF5] { cpu with a := 0x12, f := flagsOfByte 0xB0, sp := 0xFFFE }
    (t.sp, t.f, t.byteAt 0xFFFD, t.byteAt 0xFFFC) = (0xFFFC, ⟨true, false, true, true⟩, 0x12, 0xB0) := by decide

/-- V-CF-27. -/
theorem test_popRr :
    let t := after [0xD1] (({ cpu with sp := 0xFFFC }.poke 0xFFFC 0xCD).poke 0xFFFD 0xAB)
    (t.d, t.e, t.sp, t.f) = (0xAB, 0xCD, 0xFFFE, ⟨false, false, false, false⟩) := by decide

/-- V-CF-28. -/
theorem test_popAf :
    let t := after [0xF1] (({ cpu with sp := 0xFFFC, f := flagsOfByte 0x00 }.poke 0xFFFC 0xFF).poke 0xFFFD 0x12)
    (t.a, t.sp, t.f) = (0x12, 0xFFFE, ⟨true, true, true, true⟩) := by decide

/-- V-SYS-07. -/
theorem test_illegalD3_fault :
    let t := after [0xD3] { cpu with a := 0x05 }
    (t.latch, t.a, t.pc) = (some ⟨.decodeFailure, 0xD3, false, 0x0100⟩, 0x05, 0x0100) := by decide

/-- V-SYS-08. -/
theorem test_illegalFD_fault :
    let t := after [0xFD, 0x00, 0x00] cpu
    (t.latch, t.a, t.pc) = (some ⟨.decodeFailure, 0xFD, false, 0x0100⟩, 0x00, 0x0100) := by decide

/-- V-BIT-08. -/
theorem test_rlcR :
    let t := after [0xCB, 0x00] { cpu with b := 0x85, f := flagsOfByte 0x00 }
    (t.b, t.f) = (0x0B, ⟨false, false, false, true⟩) := by decide

/-- V-BIT-10. -/
theorem test_rlcHl :
    let t := after [0xCB, 0x06] ({ cpu with h := 0xC0, l := 0x00, f := flagsOfByte 0x00 }.poke 0xC000 0x80)
    (t.f, t.byteAt 0xC000) = (⟨false, false, false, true⟩, 0x01) := by decide

/-- V-BIT-11. -/
theorem test_rrcR :
    let t := after [0xCB, 0x09] { cpu with c := 0x01, f := flagsOfByte 0x00 }
    (t.c, t.f) = (0x80, ⟨false, false, false, true⟩) := by decide

/-- V-BIT-13. -/
theorem test_rlR :
    let t := after [0xCB, 0x17] { cpu with a := 0x80, f := flagsOfByte 0x00 }
    (t.a, t.f) = (0x00, ⟨true, false, false, true⟩) := by decide

/-- V-BIT-15. -/
theorem test_rrR :
    let t := after [0xCB, 0x1A] { cpu with d := 0x8A, f := flagsOfByte 0x10 }
    (t.d, t.f) = (0xC5, ⟨false, false, false, false⟩) := by decide

/-- V-BIT-16. -/
theorem test_rrHl :
    let t := after [0xCB, 0x1E] ({ cpu with h := 0xC0, l := 0x00, f := flagsOfByte 0x10 }.poke 0xC000 0x00)
    (t.f, t.byteAt 0xC000) = (⟨false, false, false, false⟩, 0x80) := by decide

/-- V-BIT-18. -/
theorem test_slaR :
    let t := after [0xCB, 0x23] { cpu with e := 0xFF, f := flagsOfByte 0x00 }
    (t.e, t.f) = (0xFE, ⟨false, false, false, true⟩) := by decide

/-- V-BIT-20. -/
theorem test_sraR :
    let t := after [0xCB, 0x28] { cpu with b := 0x01, f := flagsOfByte 0x00 }
    (t.b, t.f) = (0x00, ⟨true, false, false, true⟩) := by decide

/-- V-BIT-22. -/
theorem test_swapR :
    let t := after [0xCB, 0x30] { cpu with b := 0xF1, f := flagsOfByte 0xF0 }
    (t.b, t.f) = (0x1F, ⟨false, false, false, false⟩) := by decide

/-- V-BIT-23. -/
theorem test_swapHl :
    let t := after [0xCB, 0x36] ({ cpu with h := 0xC0, l := 0x00, f := flagsOfByte 0x00 }.poke 0xC000 0xF0)
    (t.f, t.byteAt 0xC000) = (⟨false, false, false, false⟩, 0x0F) := by decide

/-- V-BIT-25. -/
theorem test_srlR :
    let t := after [0xCB, 0x3C] { cpu with h := 0xFF, l := 0x00, f := flagsOfByte 0x00 }
    (t.h, t.f) = (0x7F, ⟨false, false, false, true⟩) := by decide

/-- V-BIT-27. -/
theorem test_bitR :
    let t := after [0xCB, 0x65] { cpu with h := 0x00, l := 0xEF, f := flagsOfByte 0x00 }
    t.f = ⟨true, false, true, false⟩ := by decide

/-- V-BIT-28. -/
theorem test_bitHl :
    let t := after [0xCB, 0x46] ({ cpu with h := 0xC0, l := 0x00, f := flagsOfByte 0x10 }.poke 0xC000 0xFE)
    t.f = ⟨true, false, true, true⟩ := by decide

/-- V-BIT-29. -/
theorem test_resR :
    let t := after [0xCB, 0xBF] { cpu with a := 0x80, f := flagsOfByte 0xF0 }
    (t.a, t.f) = (0x00, ⟨true, true, true, true⟩) := by decide

/-- V-BIT-33. -/
theorem test_resHl :
    let t := after [0xCB, 0x86] ({ cpu with h := 0xC0, l := 0x00, f := flagsOfByte 0x00 }.poke 0xC000 0x10)
    (t.f, t.byteAt 0xC000) = (⟨false, false, false, false⟩, 0x10) := by decide

/-- V-BIT-31. -/
theorem test_setR :
    let t := after [0xCB, 0xCB] { cpu with e := 0x00, f := flagsOfByte 0xF0 }
    (t.e, t.f) = (0x02, ⟨true, true, true, true⟩) := by decide

/-- V-BIT-32. -/
theorem test_setHl :
    let t := after [0xCB, 0xFE] ({ cpu with h := 0xC0, l := 0x00, f := flagsOfByte 0x00 }.poke 0xC000 0x00)
    (t.f, t.byteAt 0xC000) = (⟨false, false, false, false⟩, 0x80) := by decide

/-! ### Constructors with no vector: the worked examples of their rules -/

/-- HL = 0xC000 and the byte there. -/
def withHl (v : Byte) (s : State) : State := { s with h := 0xC0, l := 0x00 }.poke 0xC000 v

/-- The carry flag alone. -/
def carry : Flags := ⟨false, false, false, true⟩

/-- R187. -/
theorem test_ldADe : (after [0x1A] ({ cpu with d := 0xC0, e := 0x11 }.poke 0xC011 0x5F)).a = 0x5F := by decide
/-- R188. -/
theorem test_ldBcA : (after [0x02] { cpu with a := 0x3F, b := 0xC2, c := 0x05 }).byteAt 0xC205 = 0x3F := by decide
/-- R127. -/
theorem test_adcAHl :
    let t := after [0x8E] (withHl 0x01 { cpu with a := 0x0E, f := carry })
    (t.a, t.f) = (0x10, ⟨false, false, true, false⟩) := by decide
/-- R128. -/
theorem test_adcAN :
    let t := after [0xCE, 0x00] { cpu with a := 0x7F, f := carry }
    (t.a, t.f) = (0x80, ⟨false, false, true, false⟩) := by decide
/-- R130. -/
theorem test_subHl :
    let t := after [0x96] (withHl 0x40 { cpu with a := 0x3E })
    (t.a, t.f) = (0xFE, ⟨false, true, false, true⟩) := by decide
/-- R131. -/
theorem test_subN :
    let t := after [0xD6, 0x01] cpu
    (t.a, t.f) = (0xFF, ⟨false, true, true, true⟩) := by decide
/-- R134. -/
theorem test_sbcAN :
    let t := after [0xDE, 0x3A] { cpu with a := 0x3B, f := carry }
    (t.a, t.f) = (0x00, ⟨true, true, false, false⟩) := by decide
/-- R136. -/
theorem test_andHl :
    let t := after [0xA6] (withHl 0x00 { cpu with a := 0x5A })
    (t.a, t.f) = (0x00, ⟨true, false, true, false⟩) := by decide
/-- R139. -/
theorem test_xorHl :
    let t := after [0xAE] (withHl 0x8A { cpu with a := 0xFF })
    (t.a, t.f) = (0x75, ⟨false, false, false, false⟩) := by decide
/-- R140. -/
theorem test_xorN : (after [0xEE, 0x0F] { cpu with a := 0xFF }).a = 0xF0 := by decide
/-- R142. -/
theorem test_orHl :
    let t := after [0xB6] (withHl 0x0F { cpu with a := 0x5A })
    (t.a, t.f) = (0x5F, ⟨false, false, false, false⟩) := by decide
/-- R143. -/
theorem test_orN :
    let t := after [0xF6, 0x00] cpu
    (t.a, t.f) = (0x00, ⟨true, false, false, false⟩) := by decide
/-- R145. -/
theorem test_cpHl :
    let t := after [0xBE] (withHl 0x40 { cpu with a := 0x3C })
    (t.a, t.f) = (0x3C, ⟨false, true, false, true⟩) := by decide
/-- R229. -/
theorem test_rrcHl :
    let t := after [0xCB, 0x0E] (withHl 0x02 cpu)
    (t.byteAt 0xC000, t.f) = (0x01, ⟨false, false, false, false⟩) := by decide
/-- R231. -/
theorem test_rlHl :
    let t := after [0xCB, 0x16] (withHl 0x11 cpu)
    (t.byteAt 0xC000, t.f) = (0x22, ⟨false, false, false, false⟩) := by decide
/-- R235. -/
theorem test_slaHl :
    let t := after [0xCB, 0x26] (withHl 0xFF cpu)
    (t.byteAt 0xC000, t.f) = (0xFE, ⟨false, false, false, true⟩) := by decide
/-- R237. -/
theorem test_sraHl :
    let t := after [0xCB, 0x2E] (withHl 0x01 cpu)
    (t.byteAt 0xC000, t.f) = (0x00, ⟨true, false, false, true⟩) := by decide
/-- R241. -/
theorem test_srlHl :
    let t := after [0xCB, 0x3E] (withHl 0xFF cpu)
    (t.byteAt 0xC000, t.f) = (0x7F, ⟨false, false, false, true⟩) := by decide

/-- R34: a second step after the fatal condition of V-SYS-07 has no next state. -/
theorem test_stopped_block : after [] (after [0xD3] cpu) = after [0xD3] cpu := by decide

/-- The host's two hooks on one word: the decoder's row, and the step that runs it first after reset. -/
theorem test_withFetchWord : decodeTableWord 24 0x1234C3 = some .jpNn ∧
    (after [] (State.reset.withFetchWord 24 0x1234C3)).pc = 0x1234 := by decide

/-! ### The parameters of R8, each with a value the spec does not take -/

/-- `ILLEGAL` enlarged by DAA's byte and by the prefix byte, which R290 takes before it asks the decoder. -/
def lessComplete : State := { cpu with params := { Config.resetParams with illegal := [0x27, 0xCB] } }

/-- D11: a byte added to `ILLEGAL` ends the step in `DecodeFailure` (R321). -/
theorem test_illegal_enlarged : (after [0x27] lessComplete).latch = some ⟨.decodeFailure, 0x27, false, 0x0100⟩ := by decide

/-- R290, R293: the prefix byte is not looked up; R96: the eleven bytes stay without a mapping. -/
theorem test_illegal_edges : (after [0xCB, 0x27] lessComplete).latch = none ∧
    (after [0xD3] lessComplete).latch = some ⟨.decodeFailure, 0xD3, false, 0x0100⟩ := by decide

/-- R361: a platform that starts at 0x0100. -/
theorem test_reset_pc : let s : State := { cpu with params := { Config.resetParams with resetPc := 0x0100 }, pc := 0x1234 }
    (s.assertReset Config.resetRegs).pc = 0x0100 := by decide

/-- R372: the published figures for `BIT b,(HL)` and for `JR cc,e` not taken, in place of the table's. -/
def publishedCpu : State :=
  { cpu with params := { Config.resetParams with cycles := [⟨.bitHl 0, true, 12⟩, ⟨.jrCcE .nz, false, 8⟩] } }

/-- R372: the replaced figures, whatever the fields of the row, and one that keeps the table's. -/
theorem test_cycles_replaced : (after [0xCB, 0x7E] publishedCpu).report = .completed 12 .none ∧
    (after [0x28, 0x00] publishedCpu).report = .completed 8 .none ∧
    (after [0x20, 0x00] publishedCpu).report = .completed 16 .none ∧
    (after [0xCB, 0x86] publishedCpu).report = .completed 16 .none := by decide

/-! ### The open reading of memory (R63 (b)): the environment answers the reads -/

/-- A block at 0x0100 whose memory is all zero and whose environment answers the reads with `bytes`, in order. -/
def opened (bytes : List Byte) : State :=
  { cpu with params := { Config.resetParams with memory := .opened ((List.range bytes.length).zip bytes) } }

/-- U10: the step runs what the environment answers, not what memory holds. -/
theorem test_open_answers : (after [] (opened [0x3E, 0x12])).a = 0x12 ∧
    (after [] (opened [0xCB, 0x37])).report = .completed 8 .none ∧
    (after [0x3E, 0x12] (opened [0xD3])).latch = some ⟨.decodeFailure, 0xD3, false, 0x0100⟩ := by decide

/-- U10: a write is an output, seen on the bus; the next read of the address has the environment's answer. `PUSH AF`
of 0x0000, then `POP BC`. -/
theorem test_open_writes : let t := after [] (opened [0xF5, 0xC1, 0x34, 0x12])
    let u := after [] t
    (t.bus, u.b, u.c, u.sp) =
      ([.read 0x0100 0xF5, .write 0xFFFF 0x00, .write 0xFFFE 0x00], 0x12, 0x34, 0x0000) := by decide

/-- The free value: a read the environment says nothing of. -/
theorem test_open_free : (after [] (opened [0x3E])).a = Config.freeAnswer 1 := rfl

/-- Under the open reading too, a placed word is what the next step runs. -/
theorem test_open_withFetchWord : (after [] ((opened []).withFetchWord 24 0x1234C3)).pc = 0x1234 ∧
    (after [] ((after [] (opened [0x00])).withFetchWord 24 0x1234C3)).pc = 0x1234 := by decide

/-- A reset does not start the environment's answers anew. -/
theorem test_open_reset : (((after [] (opened [0x00, 0x37])).assertReset Config.resetRegs).answer 0 0x0000) = 0x37 := by
  decide

/-! ### Witnesses: states and operands that meet the hypotheses of the statements -/

/-- The instruction completes in the state. -/
def completes (s : State) (i : Instr) : Bool :=
  match exec i s with
  | .next t => match t.report with
    | .completed _ _ => true
    | _ => false
  | _ => false

/-- Every operand path unwired. -/
def unwiredCpu : State := { cpu with params := { Config.resetParams with unwired := Config.unwiredRef, addHlH := .unchanged } }

/-- A program at 0x0100. -/
def running (bytes : List Byte) : State := stored 0x0100 bytes cpu

theorem test_witness_DecodeOfEncodeIsIdentity :
    (Instr.bitR 7 .a).wellFormed = true ∧ Instr.illegalFD.noMapping = true := by decide

theorem test_witness_EveryByteIsTheCodeOfOneRow : (Instr.pushRr .hl).fieldsAllowed = true ∧
    Instr.prefixCb.fieldsAllowed = true ∧ Instr.illegalD3.fieldsAllowed = true := by decide

theorem test_witness_StepRunsTheDecodedInstruction :
    (running [0x80]).Running ∧
    decode [(running [0x80]).answer 0 0x0100, (running [0x80]).answer 1 0x0101] = .ok (.addAR .b, [0x00]) ∧
    decode [(running [0xCB, 0x37]).answer 0 0x0100, (running [0xCB, 0x37]).answer 1 0x0101] = .ok (.swapR .a, []) ∧
    decode [(opened [0xCB, 0x37]).answer 0 0x0100, (opened [0xCB, 0x37]).answer 1 0x0101] = .ok (.swapR .a, []) ∧
    (Instr.addAR .b).wellFormed = true ∧ (Instr.swapR .a).wellFormed = true ∧
    decodeByte cpu.params.illegal 0x80 false ≠ none ∧ decodeByte lessComplete.params.illegal 0xCB false ≠ none :=
  ⟨rfl, by decide⟩

theorem test_witness_StoppedBlockReportsItsRecord : ∃ s : State, s.latch = some ⟨.decodeFailure, 0xD3, false, 0x0100⟩ :=
  ⟨after [0xD3] cpu, by decide⟩

theorem test_witness_UnmappedByteIsDecodeFailure :
    (running [0xD3]).Running ∧ (running [0xD3]).answer 0 (running [0xD3]).pc ∈ Config.illegal ∧
    ∃ t r, step (running [0xD3]) = .next t ∧ t.latch = some r ∧ r.kind = .decodeFailure :=
  ⟨rfl, by decide, _, _, rfl, rfl, rfl⟩

theorem test_witness_UnmappedByteIsDecodeFailure_enlarged :
    (stored 0x0100 [0x27] lessComplete).Running ∧ (0x27 : Byte) ≠ 0xCB ∧ 0x27 ∈ lessComplete.params.illegal ∧
    ∃ t r, step (stored 0x0100 [0x27] lessComplete) = .next t ∧ t.latch = some r ∧ r.kind = .decodeFailure :=
  ⟨rfl, by decide, by decide, _, _, rfl, rfl, rfl⟩

theorem test_witness_UnimplementedOperand_stop : (running [0x10]).Running ∧ unimplementedUnder Config.allWired 0x10 ∧
    0x10 ∉ (running [0x10]).params.illegal ∧ ∃ t r, step (running [0x10]) = .next t ∧ t.latch = some r ∧ r.kind = .unimplementedOperand :=
  ⟨rfl, .inl rfl, by decide, _, _, rfl, rfl, rfl⟩

theorem test_witness_UnimplementedOperand_paths :
    unimplementedUnder Config.unwiredRef 0x86 ∧ unimplementedUnder Config.unwiredRef 0xFE ∧
    unimplementedUnder Config.unwiredRef 0x35 ∧ ¬ unimplementedUnder Config.allWired 0x86 := by
  unfold unimplementedUnder; decide

theorem test_witness_FatalConditionIsAllOrNothing :
    ∃ t r, step (stored 0x0100 [0xFE] unwiredCpu) = .next t ∧ t.report = .fatal r := ⟨_, _, rfl, rfl⟩

theorem test_witness_unwired : unwiredCpu.params.unwired.alu8HlInd = true ∧ unwiredCpu.params.unwired.alu8Imm = true ∧
    unwiredCpu.params.unwired.incDec8HlInd = true := by decide

theorem test_witness_wired : cpu.params.unwired.alu8HlInd = false ∧ cpu.params.unwired.alu8Imm = false ∧
    cpu.params.unwired.incDec8HlInd = false := by decide

theorem test_witness_completes_loads : ∀ i ∈ ([.nop, .halt, .di, .ei, .reti, .prefixCb, .ldRR .b .c, .ldRN .a, .ldRHl .h,
    .ldHlR .l, .ldHlN, .ldABc, .ldADe, .ldBcA, .ldDeA, .ldAHli, .ldAHld, .ldHliA, .ldHldA, .ldANn, .ldNnA, .ldhAN, .ldhNA,
    .ldhAC, .ldhCA, .ldRpNn .bc, .ldRpNn .sp, .ldSpHl, .ldHlSpE, .ldNnSp] : List Instr), completes cpu i = true := by decide

theorem test_witness_completes_alu : ∀ i ∈ ([.addAR .a, .addAHl, .addAN, .adcAR .b, .adcAHl, .adcAN, .subR .c, .subHl, .subN,
    .sbcAR .d, .sbcAHl, .sbcAN, .andR .e, .andHl, .andN, .xorR .h, .xorHl, .xorN, .orR .l, .orHl, .orN, .cpR .a, .cpHl,
    .cpN] : List Instr), completes cpu i = true := by decide

theorem test_witness_completes_alu_rest : ∀ i ∈ ([.incR .a, .incHl, .decR .b, .decHl, .incRp .bc, .decRp .sp, .addHlRp .hl,
    .addSpE, .daa, .cpl, .scf, .ccf, .rlca, .rrca, .rla, .rra] : List Instr), completes cpu i = true := by decide

theorem test_witness_completes_control : ∀ i ∈ ([.jpNn, .jpCcNn .nz, .jpCcNn .z, .jpHl, .jrE, .jrCcE .nc, .jrCcE .c, .callNn,
    .callCcNn .nz, .callCcNn .z, .ret, .retCc .nz, .retCc .z, .rst 0, .rst 7, .pushRr .bc, .pushAf, .popRr .de, .popAf] :
    List Instr), completes cpu i = true := by decide

theorem test_witness_completes_prefixed : ∀ i ∈ ([.rlcR .b, .rlcHl, .rrcR .c, .rrcHl, .rlR .d, .rlHl, .rrR .e, .rrHl,
    .slaR .h, .slaHl, .sraR .l, .sraHl, .swapR .a, .swapHl, .srlR .b, .srlHl, .bitR 0 .a, .bitR 7 .b, .bitHl 7, .resR 0 .c,
    .resHl 7, .setR 7 .d, .setHl 0] : List Instr), completes cpu i = true := by decide

theorem test_witness_CyclesOutputIsTheTable : cpu.params.cycles = [] ∧ publishedCpu.params.cycles ≠ [] := by decide

theorem test_witness_not_taken : condHolds .z cpu.f = false ∧ condHolds .c cpu.f = false ∧
    condHolds .nz { cpu with f := ⟨true, false, false, true⟩ }.f = false ∧
    condHolds .nc { cpu with f := ⟨true, false, false, true⟩ }.f = false := by decide

theorem test_witness_MemoryChangesOnlyByBusWrites : (running [0x34]).params.memory = .closed ∧
    ∃ t rs ws, step (running [0x34]) = .next t ∧ t.bus = rs ++ .read 0x0000 0x00 :: ws :=
  ⟨rfl, _, [.read 0x0100 0x34], [.write 0x0000 0x01], rfl, by decide⟩

theorem test_witness_MemoryChangesOnlyByBusWrites_open :
    (opened [0x34, 0x7F]).params.memory = .opened [(0, 0x34), (1, 0x7F)] ∧
    ∃ t rs ws, step (opened [0x34, 0x7F]) = .next t ∧ t.bus = rs ++ .read 0x0000 0x7F :: ws :=
  ⟨by decide, _, [.read 0x0100 0x34], [.write 0x0000 0x80], rfl, by decide⟩

theorem test_witness_StoreIsSeenByTheNextStep :
    (let s : State := { running [0x36, 0x76] with h := 0x01, l := 0x02 }
    s.latch = none ∧ s.params.memory = .closed ∧ Memory.wf s.mem = true ∧ s.byteAt s.pc = 0x36 ∧ 0x36 ∉ s.params.illegal ∧ s.hl = s.pc + 2) := by decide

theorem test_witness_StepKeepsTheInvariant_completing : ∃ s t, s.Inv ∧ step s = .next t ∧ t.latch = none :=
  ⟨running [0x34], _, ⟨by decide, fun r => ⟨(nomatch ·), (nomatch ·)⟩, fun r => (nomatch ·)⟩, rfl, rfl⟩

theorem test_witness_StepKeepsTheInvariant_failing : ∃ s t r, s.Inv ∧ step s = .next t ∧ t.latch = some r :=
  ⟨running [0x10], _, _, ⟨by decide, fun r => ⟨(nomatch ·), (nomatch ·)⟩, fun r => (nomatch ·)⟩, rfl, rfl⟩

theorem test_witness_canonical_memory : Memory.wf [(0x0000, 0x01), (0xFFFF, 0xFF)] = true ∧
    Memory.wf cpu.mem = true ∧ Memory.wf (running [0x34, 0x00, 0x01]).mem = true := by decide

theorem test_witness_ReadReturnsTheLastWrite : (running [0x34]).byteAt 0x0100 = 0x34 ∧
    (0xFFFF : Word) ≠ 0x0000 ∧ Memory.wf (running [0x34]).mem = true ∧ (running [0x34]).params.memory = .closed := by decide

theorem test_witness_ReadReturnsTheLastWrite_open : (opened [0x34]).params.memory = .opened [(0, 0x34)] ∧
    ((opened [0x34]).memRead 0x0100).1 = 0x34 := by decide

theorem test_witness_StackRoundTrips : cpu.params.memory = .closed ∧ Memory.wf cpu.mem = true ∧ (Rp2.bc ≠ .af) := by
  decide

theorem test_witness_DecimalAdjust_add : ∃ t u, exec (.addAR .b) { cpu with a := 0x99, b := 0x99 } = .next t ∧
    exec .daa t = .next u := ⟨_, _, rfl, rfl⟩

theorem test_witness_DecimalAdjust_sub : ∃ t u, exec (.subR .b) { cpu with a := 0x00, b := 0x99 } = .next t ∧
    exec .daa t = .next u := ⟨_, _, rfl, rfl⟩

theorem test_witness_DecimalAdjust_digits : BitVec.ofNat 8 (16 * (99 / 10) + 99 % 10) = (0x99 : Byte) ∧
    BitVec.ofNat 8 (16 * (0 / 10) + 0 % 10) = (0x00 : Byte) := by decide

end Sys2Proof.Tests
end

section
/-! The `cycles` output of every instruction against the table of R372 (spec/44_orchestrator.md R292). An instruction ends
its step by `State.commit` or by `State.raise`; one lemma for each end and for each choice between two ends, then
the case split over the rows that cites them. -/

namespace Sys2Proof.Machine

/-- Where `r` is a completed step, its `cycles` output is the table's figure for the row `i` and for whether the transfer
is taken in `s`, as the parameter `CYCLES` of `s` replaces it. -/
def OutputsCycles (i : Instr) (s : State) (r : Result) : Prop :=
  ∀ (t : State) (n : Nat) (k : Hook), r = .next t → t.report = .completed n k →
    (cyclesTable i (taken i s)).map (s.figure i (taken i s)) = some n

/-! ### How a step ends -/

theorem OutputsCycles.of_commit {i : Instr} {s t : State} {x : Word} {tk : Bool} {m : Nat} {k : Hook}
    (ht : taken i s = tk) (hc : cyclesTable i tk = some m) : OutputsCycles i s (t.commit x (s.figure i tk m) k) := by
  rintro _ _ _ ⟨⟩ ⟨⟩
  rw [ht, hc, Option.map_some]

/-- A fatal condition outputs no cycles (R323). -/
theorem OutputsCycles.of_raise {i : Instr} {s t : State} {kind : FatalKind} {op : Byte} {p : Bool} :
    OutputsCycles i s (t.raise kind op p) := by
  rintro _ _ _ ⟨⟩ ⟨⟩

/-- A conditional transfer has a figure for each outcome (R372). -/
theorem OutputsCycles.of_conditional {i : Instr} {s t u : State} {c : Bool} {x y : Word} {m m' : Nat} {k k' : Hook}
    (ht : taken i s = c) (hm : cyclesTable i true = some m) (hm' : cyclesTable i false = some m') :
    OutputsCycles i s
      (if c then t.commit x (s.figure i true m) k else u.commit y (s.figure i false m') k') := by
  cases c with
  | true => exact .of_commit ht hm
  | false => exact .of_commit ht hm'

/-- An operand path that may be unwired raises or commits (R121, R122). -/
theorem OutputsCycles.of_wiring {i : Instr} {s t u : State} {unwired : Bool} {kind : FatalKind} {op : Byte} {p : Bool}
    {x : Word} {m : Nat} {k : Hook} (ht : taken i s = true) (hc : cyclesTable i true = some m) :
    OutputsCycles i s (if unwired then t.raise kind op p else u.commit x (s.figure i true m) k) := by
  cases unwired with
  | true => exact .of_raise
  | false => exact .of_commit ht hc

/-! ### Every row -/

/-- Every instruction but byte 0xCB, whose figure is that of the row it runs. -/
theorem exec_outputsCycles (i : Instr) (s : State) (hi : i ≠ .prefixCb) : OutputsCycles i s (exec i s) := by
  cases i with
  | prefixCb => exact absurd rfl hi
  | stop | illegalD3 | illegalDB | illegalDD | illegalE3 | illegalE4 | illegalEB | illegalEC | illegalED | illegalF4
  | illegalFC | illegalFD => exact .of_raise
  | addAHl | adcAHl | subHl | sbcAHl | andHl | xorHl | orHl | cpHl
  | addAN | adcAN | subN | sbcAN | andN | xorN | orN | cpN | incHl | decHl => exact .of_wiring rfl rfl
  | jpCcNn | jrCcE | callCcNn | retCc => exact .of_conditional rfl rfl rfl
  | nop | halt | di | ei | reti
  | ldRR | ldRN | ldRHl | ldHlR | ldHlN | ldABc | ldADe | ldBcA | ldDeA | ldAHli | ldAHld | ldHliA | ldHldA | ldANn
  | ldNnA | ldhAN | ldhNA | ldhAC | ldhCA | ldRpNn | ldSpHl | ldHlSpE | ldNnSp
  | addAR | adcAR | subR | sbcAR | andR | xorR | orR | cpR | incR | decR | incRp | decRp | addHlRp | addSpE
  | daa | cpl | scf | ccf | rlca | rrca | rla | rra
  | jpNn | jpHl | jrE | callNn | ret | rst | pushRr | pushAf | popRr | popAf
  | rlcR | rlcHl | rrcR | rrcHl | rlR | rlHl | rrR | rrHl | slaR | slaHl | sraR | sraHl | swapR | swapHl | srlR | srlHl
  | bitR | bitHl | resR | resHl | setR | setHl => exact .of_commit rfl rfl

/-! ### Byte 0xCB -/

/-- No row of the prefixed table is a conditional transfer. -/
theorem taken_of_isPrefixed {i : Instr} (s : State) (h : i.isPrefixed = true) : taken i s = true := by
  cases i with
  | jpCcNn | jrCcE | callCcNn | retCc => exact absurd h Bool.false_ne_true
  | _ => rfl

/-- Byte 0xCB outputs the figure of the row it runs, which is not conditional (R293). -/
theorem exec_prefixCb_cycles {s t : State} {n : Nat} {k : Hook} (he : exec .prefixCb s = .next t)
    (hr : t.report = .completed n k) :
    (cyclesTable (prefixedRow (s.answer 0 (s.pc + 1))) true).map
      (s.figure (prefixedRow (s.answer 0 (s.pc + 1))) true) = some n := by
  have hp := prefixedRow_isPrefixed (s.answer 0 (s.pc + 1))
  have hrow := exec_outputsCycles _ (s.saw [.read (s.pc + 1) (s.answer 0 (s.pc + 1))])
    (fun h => by rw [h] at hp; cases hp) t n k ((execPrefixCb_eq s).symm.trans he) hr
  rwa [taken_of_isPrefixed _ hp] at hrow

/-- With no replacement, the figure that is output is the table's. -/
theorem map_figure_of_nil {s : State} (h : s.params.cycles = []) (i : Instr) (tk : Bool) (o : Option Nat) :
    o.map (s.figure i tk) = o := by
  rw [funext (State.figure_of_nil h i tk), Option.map_id']

/-- Settles O14: the rows by their common ends, and byte 0xCB by the row it runs. -/
theorem cyclesOutputIsTheTable : Obligations.CyclesOutputIsTheTable := by
  intro i s t n k he hr row
  have hn : (cyclesTable row (taken i s)).map (s.figure row (taken i s)) = some n := by
    by_cases hi : i = .prefixCb
    · subst hi
      exact exec_prefixCb_cycles he hr
    · have hrow : row = i := if_neg hi
      rw [hrow]
      exact exec_outputsCycles i s hi t n k he hr
  exact ⟨hn, fun h => by rwa [map_figure_of_nil h] at hn⟩

end Sys2Proof.Machine
end

section
/-! What a meaning leaves unwritten (spec/10_state.md R20 to R29). `EveryNext p r` says that every next state a result
answers has `p`. `Framed` is the frame of a state against an earlier one, with one rule for each operation the meanings
are written over; the frame of an instruction is the chain of the rules of its operations. The flags have a law of
their own, read off the rows of the table of R29. -/

namespace Sys2Proof

/-- Every row but those O60 names as keeping all four flags. Byte 0xCB, which runs another row, stays among them. -/
def Instr.MayChangeFlags : Instr → Prop
  | .incRp _ | .decRp _ => False
  | .ldRR _ _ | .ldRN _ | .ldRHl _ | .ldHlR _ | .ldHlN | .ldABc | .ldADe | .ldBcA | .ldDeA | .ldAHli | .ldAHld
  | .ldHliA | .ldHldA | .ldANn | .ldNnA | .ldhAN | .ldhNA | .ldhAC | .ldhCA | .ldRpNn _ | .ldSpHl | .ldNnSp => False
  | .resR _ _ | .resHl _ | .setR _ _ | .setHl _ => False
  | .jpNn | .jpCcNn _ | .jpHl | .jrE | .jrCcE _ | .callNn | .callCcNn _ | .ret | .retCc _ | .rst _ => False
  | .pushRr _ | .pushAf | .popRr .bc | .popRr .de | .popRr .hl => False
  | .nop | .stop | .halt | .di | .ei | .reti => False
  | _ => True

/-- The rows that write C in the table of R29. -/
def Instr.WritesCarry : Instr → Prop
  | .addAR _ | .addAHl | .addAN | .adcAR _ | .adcAHl | .adcAN | .subR _ | .subHl | .subN | .sbcAR _ | .sbcAHl
  | .sbcAN | .andR _ | .andHl | .andN | .xorR _ | .xorHl | .xorN | .orR _ | .orHl | .orN | .cpR _ | .cpHl | .cpN
  | .addHlRp _ | .addSpE | .ldHlSpE | .daa | .scf | .ccf | .rlca | .rrca | .rla | .rra
  | .rlcR _ | .rlcHl | .rrcR _ | .rrcHl | .rlR _ | .rlHl | .rrR _ | .rrHl | .slaR _ | .slaHl | .sraR _ | .sraHl
  | .swapR _ | .swapHl | .srlR _ | .srlHl | .popAf | .popRr .af => True
  | _ => False

end Sys2Proof

namespace Sys2Proof.Machine

/-- Every next state that `r` answers has `p`. -/
def EveryNext (p : State → Prop) (r : Result) : Prop := ∀ t, r = .next t → p t

theorem EveryNext.next {p : State → Prop} {t : State} (h : p t) : EveryNext p (.next t) := by
  rintro _ ⟨⟩
  exact h

/-- A choice between two ends of a step: a condition taken or not, an operand path wired or not. -/
theorem EveryNext.ite {p : State → Prop} {c : Prop} [Decidable c] {r r' : Result} (h : c → EveryNext p r)
    (h' : ¬c → EveryNext p r') : EveryNext p (if c then r else r') := by
  by_cases hc : c
  · rw [if_pos hc]
    exact h hc
  · rw [if_neg hc]
    exact h' hc

theorem EveryNext.mono {p q : State → Prop} {r : Result} (h : EveryNext p r) (hpq : ∀ t, p t → q t) : EveryNext q r :=
  fun t ht => hpq t (h t ht)

/-! ### The flags -/

/-- Ending a step changes no flag. -/
theorem EveryNext.commit_flags {g : Flags} {t : State} {x : Word} {n : Nat} {k : Hook} (h : t.f = g) :
    EveryNext (fun u => u.f = g) (t.commit x n k) := .next h

theorem State.push16_f (s : State) (v : Word) : (s.push16 v).f = s.f := by rw [State.push16_eq]; rfl

/-- A row that is not among those of `MayChangeFlags` keeps all four flags. -/
theorem exec_keepsFlags {i : Instr} {s t : State} (he : exec i s = .next t) (hi : ¬i.MayChangeFlags) :
    t.f = s.f := by
  refine (?_ : EveryNext (fun u => u.f = s.f) (exec i s)) t he
  clear he
  cases i with
  | ldRR | ldRN | ldRHl => exact .commit_flags (State.setReg_f ..)
  | ldRpNn | incRp | decRp => exact .commit_flags (State.setRp_f ..)
  | callNn | rst | pushRr | pushAf => exact .commit_flags (State.push16_f ..)
  | callCcNn => exact .ite (fun _ => .commit_flags (State.push16_f ..)) (fun _ => .commit_flags rfl)
  | jpCcNn | jrCcE | retCc => exact .ite (fun _ => .commit_flags rfl) (fun _ => .commit_flags rfl)
  | popRr q =>
    cases q with
    | af => exact absurd trivial hi
    | bc | de | hl => exact .commit_flags rfl
  | ldHlR | ldHlN | ldABc | ldADe | ldBcA | ldDeA | ldAHli | ldAHld | ldHliA | ldHldA | ldANn | ldNnA | ldhAN | ldhNA
  | ldhAC | ldhCA | ldSpHl | ldNnSp | resR | resHl | setR | setHl | jpNn | jpHl | jrE | ret
  | nop | halt | di | ei | reti => exact .commit_flags rfl
  | stop => exact .next rfl
  | _ => exact absurd trivial hi

/-- A row that does not write C keeps it. Byte 0xCB is left out: it runs another row. -/
theorem exec_keepsCarry {i : Instr} {s t : State} (he : exec i s = .next t) (hcb : i ≠ .prefixCb)
    (hi : ¬i.WritesCarry) : t.f.c = s.f.c := by
  by_cases hf : i.MayChangeFlags
  · refine (?_ : EveryNext (fun u => u.f.c = s.f.c) (exec i s)) t he
    clear he
    cases i with
    | prefixCb => exact absurd rfl hcb
    | incR | decR | cpl | bitR | bitHl => exact .next rfl
    | incHl | decHl => exact .ite (fun _ => .next rfl) (fun _ => .next rfl)
    | illegalD3 | illegalDB | illegalDD | illegalE3 | illegalE4 | illegalEB | illegalEC | illegalED | illegalF4
    | illegalFC | illegalFD => exact .next rfl
    | popRr q =>
      cases q with
      | af => exact absurd trivial hi
      | bc | de | hl => exact absurd hf not_false
    | addAR | addAHl | addAN | adcAR | adcAHl | adcAN | subR | subHl | subN | sbcAR | sbcAHl | sbcAN | andR | andHl
    | andN | xorR | xorHl | xorN | orR | orHl | orN | cpR | cpHl | cpN | addHlRp | addSpE | ldHlSpE | daa | scf | ccf
    | rlca | rrca | rla | rra | rlcR | rlcHl | rrcR | rrcHl | rlR | rlHl | rrR | rrHl | slaR | slaHl | sraR | sraHl
    | swapR | swapHl | srlR | srlHl | popAf => exact absurd trivial hi
    | _ => exact absurd hf not_false
  · rw [exec_keepsFlags he hf]

/-- Settles O60: a flag that changed is no flag the row keeps. -/
theorem onlyListedInstructionsChangeFlags : Obligations.OnlyListedInstructionsChangeFlags := fun i _ _ he hcb =>
  ⟨fun hc => show i.WritesCarry from by_contra fun hi => hc (exec_keepsCarry he hcb hi),
    fun hf => show i.MayChangeFlags from by_contra fun hi => hf (exec_keepsFlags he hi)⟩

/-! ### The registers -/

/-- Settles O38: the two rules for a register read back, and a register written twice. -/
theorem registersDoNotOverlap : Obligations.RegistersDoNotOverlap := by
  intro s rd r v
  constructor
  · by_cases h : r = rd
    · subst h
      rw [if_pos rfl, State.setReg_reg_same]
    · rw [if_neg h, State.setReg_reg_other s v h]
  · cases rd <;> rfl

/-! ### The pair views -/

/-- The flags a byte writes are bits 7 to 4 of it; those of the low byte of a word are the bits of the word. -/
theorem flagsOfByte_loByte (v : Word) :
    flagsOfByte (loByte v) = ⟨v.getLsbD 7, v.getLsbD 6, v.getLsbD 5, v.getLsbD 4⟩ := by
  simp [flagsOfByte, loByte_eq]

/-- The low nibble of the flags byte is zero (R27). -/
theorem flagsToByte_low_nibble (f : Flags) : (flagsToByte f).toNat % 16 = 0 := by
  rcases f with ⟨_ | _, _ | _, _ | _, _ | _⟩ <;> rfl

/-- AF written reads back with the low nibble of its flags byte cleared (R28). -/
theorem State.setAf_af (s : State) (v : Word) : (s.setAf v).af = v &&& 0xFFF0 := by
  have hv : hiByte v ++ loByte v = v := by rw [← mkWord_eq, mkWord_hiByte_loByte]
  calc (s.setAf v).af = hiByte v ++ (loByte v &&& 0xF0) := by
        rw [State.af, State.setAf_a, State.setAf_f, flagsToByte_flagsOfByte, mkWord_eq]
    _ = (hiByte v ++ loByte v) &&& ((0xFF : Byte) ++ (0xF0 : Byte)) := by
        rw [BitVec.and_append, show (0xFF : Byte) = BitVec.allOnes 8 from rfl, BitVec.and_allOnes]
    _ = v &&& 0xFFF0 := by rw [hv]; rfl

/-- Settles O25: the byte order of a word, the flags byte bit by bit, and AF read back. -/
theorem pairViewsAreComputed : Obligations.PairViewsAreComputed := by
  intro s v
  have hfb : ∃ fb : Byte, s.af = s.a ++ fb ∧ fb.getLsbD 7 = s.f.z ∧ fb.getLsbD 6 = s.f.n ∧ fb.getLsbD 5 = s.f.h ∧
      fb.getLsbD 4 = s.f.c ∧ fb.toNat % 16 = 0 :=
    ⟨flagsToByte s.f, mkWord_eq _ _, flagsToByte_getLsbD _ 7, flagsToByte_getLsbD _ 6, flagsToByte_getLsbD _ 5,
      flagsToByte_getLsbD _ 4, flagsToByte_low_nibble _⟩
  refine ⟨mkWord_eq _ _, mkWord_eq _ _, mkWord_eq _ _, hfb, ?_, ?_, ?_, ?_, State.setAf_af s v,
    ⟨rfl, rfl, rfl, rfl⟩, rfl, rfl, rfl, rfl⟩
  · rw [State.setBc, hiByte_eq, loByte_eq]
  · rw [State.setDe, hiByte_eq, loByte_eq]
  · rw [State.setHl, hiByte_eq, loByte_eq]
  · rw [State.setAf, hiByte_eq, flagsOfByte_loByte]

/-! ### The frame rules -/

/-- From `s` to `t` only the registers `written` and the bytes `stored` may have changed, besides the flags, `pc` and the
outputs; the stack pointer is now `sp`. -/
structure Framed (written : List Reg8) (stored : List Word) (sp : Word) (s t : State) : Prop where
  regs    : regsKept written s t
  mem     : memKept stored s t
  sp      : t.sp = sp
  control : controlKept s t

section
variable {W : List Reg8} {M : List Word} {sp : Word} {s t : State}

theorem Framed.refl : Framed W M s.sp s s := ⟨fun _ _ => rfl, fun _ _ => rfl, rfl, rfl, rfl⟩

theorem Framed.trans {sp' : Word} {u : State} (h : Framed W M sp s t) (h' : Framed W M sp' t u) :
    Framed W M sp' s u :=
  ⟨fun r hr => (h'.regs r hr).trans (h.regs r hr), fun a ha => (h'.mem a ha).trans (h.mem a ha), h'.sp,
    h'.control.1.trans h.control.1, h'.control.2.trans h.control.2⟩

theorem Framed.memRead {x : Word} (h : Framed W M sp s t) : Framed W M sp s (t.memRead x).2 :=
  ⟨fun r hr => (State.saw_reg ..).trans (h.regs r hr), h.mem, h.sp, h.control⟩

theorem Framed.read16 {x : Word} (h : Framed W M sp s t) : Framed W M sp s (t.read16 x).2 := h.memRead.memRead

theorem Framed.imm8 (h : Framed W M sp s t) : Framed W M sp s t.imm8.2 := h.memRead

theorem Framed.imm16 (h : Framed W M sp s t) : Framed W M sp s t.imm16.2 := h.read16

theorem Framed.memWrite {x : Word} {v : Byte} (h : Framed W M sp s t) (hx : x ∈ M := by simp) :
    Framed W M sp s (t.memWrite x v) := by
  refine ⟨fun r hr => ?_, fun a ha => ?_, h.sp, h.control⟩
  · rw [State.memWrite_eq, State.saw_reg, State.poke_reg, h.regs r hr]
  · have hne : a ≠ x := fun e => ha (e ▸ hx)
    rw [State.memWrite_eq, State.saw_byteAt, State.poke_byteAt_other t v hne, h.mem a ha]

theorem Framed.setReg {r : Reg8} {v : Byte} (h : Framed W M sp s t) (hr : r ∈ W := by simp) :
    Framed W M sp s (t.setReg r v) := by
  refine ⟨fun q hq => ?_, fun a ha => ?_, ?_, ?_⟩
  · have hne : q ≠ r := fun e => hq (e ▸ hr)
    rw [State.setReg_reg_other t v hne, h.regs q hq]
  · rw [State.setReg_byteAt, h.mem a ha]
  · rw [State.setReg_sp, h.sp]
  · rw [controlKept, State.setReg_latch, State.setReg_params]
    exact h.control

theorem Framed.setFlags {g : Flags} (h : Framed W M sp s t) : Framed W M sp s (t.setFlags g) :=
  ⟨fun r hr => (State.setFlags_reg ..).trans (h.regs r hr), h.mem, h.sp, h.control⟩

theorem Framed.setAcc {o : ByteResult} (h : Framed W M sp s t) (ha : .a ∈ W := by simp) :
    Framed W M sp s (t.setAcc o) := (h.setReg (v := o.val) ha).setFlags

theorem Framed.loadAcc {x : Word} (h : Framed W M sp s t) (ha : .a ∈ W := by simp) :
    Framed W M sp s (t.loadAcc x) := h.memRead.setReg ha

theorem Framed.setHl {v : Word} (h : Framed W M sp s t) (hh : .h ∈ W := by simp) (hl : .l ∈ W := by simp) :
    Framed W M sp s (t.setHl v) := (h.setReg (v := hiByte v) hh).setReg hl

theorem Framed.setSp {v : Word} (h : Framed W M sp s t) : Framed W M v s { t with sp := v } :=
  ⟨fun r hr => by rw [← h.regs r hr]; cases r <;> rfl, h.mem, rfl, h.control⟩

/-- A pair written by its selector: its two registers, or the stack pointer. -/
theorem Framed.setRp {p : Rp} {v : Word} (h : Framed (rpRegs p) M sp s t) :
    Framed (rpRegs p) M (if p = .sp then v else sp) s (t.setRp p v) := by
  cases p with
  | bc => exact (h.setReg (r := .b) (v := hiByte v) (by simp [rpRegs])).setReg (r := .c) (by simp [rpRegs])
  | de => exact (h.setReg (r := .d) (v := hiByte v) (by simp [rpRegs])).setReg (r := .e) (by simp [rpRegs])
  | hl => exact h.setHl (by simp [rpRegs]) (by simp [rpRegs])
  | sp => exact h.setSp

/-- The end of a completed step. -/
theorem Framed.commit {x : Word} {n : Nat} {k : Hook} (h : Framed W M sp s t) :
    EveryNext (Framed W M sp s) (t.commit x n k) :=
  .next ⟨fun r hr => by rw [← h.regs r hr]; cases r <;> rfl, h.mem, h.sp, h.control⟩

end

/-! ### The accumulator forms -/

/-- A wired HL-indirect operand of a two-operand operation `g` is framed as `g` is. -/
theorem aluHlInd_framed {W : List Reg8} {i : Instr} {op : Byte} {g : Byte → State → State} {s : State}
    (hu : s.params.unwired.alu8HlInd = false) (hg : ∀ v t, Framed W [] t.sp t (g v t)) :
    EveryNext (Framed W [] s.sp s) (aluHlInd i op g s) := by
  rw [aluHlInd, hu]
  exact .commit (.trans (.memRead .refl) (hg _ (s.memRead s.hl).2))

/-- A wired immediate operand of a two-operand operation `g` is framed as `g` is. -/
theorem aluImm_framed {W : List Reg8} {i : Instr} {op : Byte} {g : Byte → State → State} {s : State}
    (hu : s.params.unwired.alu8Imm = false) (hg : ∀ v t, Framed W [] t.sp t (g v t)) :
    EveryNext (Framed W [] s.sp s) (aluImm i op g s) := by
  rw [aluImm, hu]
  exact .commit (.trans (.imm8 .refl) (hg _ s.imm8.2))

/-- The register operands. -/
theorem accumulatorRegisterForms_framed (s : State) (r : Reg8) :
    ∀ i ∈ ([.addAR r, .adcAR r, .subR r, .sbcAR r, .andR r, .xorR r, .orR r, .cpR r] : List Instr),
      EveryNext (Framed [.a] [] s.sp s) (exec i s) := by
  simp only [List.forall_mem_cons]
  refine ⟨?_, ?_, ?_, ?_, ?_, ?_, ?_, .commit (.setFlags .refl), nofun⟩
  all_goals exact .commit (.setAcc .refl)

/-- The HL-indirect operands, where the path is wired. -/
theorem accumulatorHlForms_framed {s : State} (hu : s.params.unwired.alu8HlInd = false) :
    ∀ i ∈ ([.addAHl, .adcAHl, .subHl, .sbcAHl, .andHl, .xorHl, .orHl, .cpHl] : List Instr),
      EveryNext (Framed [.a] [] s.sp s) (exec i s) := by
  simp only [List.forall_mem_cons]
  refine ⟨?_, ?_, ?_, ?_, ?_, ?_, ?_, aluHlInd_framed hu fun _ _ => .setFlags .refl, nofun⟩
  all_goals exact aluHlInd_framed hu fun _ _ => .setAcc .refl

/-- The immediate operands, where the path is wired. -/
theorem accumulatorImmForms_framed {s : State} (hu : s.params.unwired.alu8Imm = false) :
    ∀ i ∈ ([.addAN, .adcAN, .subN, .sbcAN, .andN, .xorN, .orN, .cpN] : List Instr),
      EveryNext (Framed [.a] [] s.sp s) (exec i s) := by
  simp only [List.forall_mem_cons]
  refine ⟨?_, ?_, ?_, ?_, ?_, ?_, ?_, aluImm_framed hu fun _ _ => .setFlags .refl, nofun⟩
  all_goals exact aluImm_framed hu fun _ _ => .setAcc .refl

theorem accRotate_framed {i : Instr} {o : ByteResult} {s : State} :
    EveryNext (Framed [.a] [] s.sp s) (accRotate i o s) :=
  .commit (t := s.setAcc (withoutZero o)) (.setAcc .refl)

/-- The forms with no second operand. -/
theorem accumulatorOwnForms_framed (s : State) :
    ∀ i ∈ ([.daa, .cpl, .scf, .ccf, .rlca, .rrca, .rla, .rra] : List Instr),
      EveryNext (Framed [.a] [] s.sp s) (exec i s) := by
  simp only [List.forall_mem_cons]
  exact ⟨.commit (.setAcc .refl), .commit (.setAcc .refl), .commit (.setFlags .refl), .commit (.setFlags .refl),
    accRotate_framed, accRotate_framed, accRotate_framed, accRotate_framed, nofun⟩

/-- The comparisons and the two carry instructions keep A, on an unwired operand path too. -/
theorem flagForms_keep_a {s t : State} {i : Instr} (he : exec i s = .next t)
    (hi : (∃ r, i = .cpR r) ∨ i ∈ ([.cpHl, .cpN, .scf, .ccf] : List Instr)) : t.a = s.a := by
  have hlist : ∀ i ∈ ([.cpHl, .cpN, .scf, .ccf] : List Instr), EveryNext (fun t => t.a = s.a) (exec i s) := by
    simp only [List.forall_mem_cons]
    exact ⟨.ite (fun _ => .next rfl) (fun _ => .next rfl), .ite (fun _ => .next rfl) (fun _ => .next rfl), .next rfl,
      .next rfl, nofun⟩
  obtain ⟨r, rfl⟩ | hi := hi
  · cases he
    rfl
  · exact hlist i hi t he

/-- Settles O55: the frame by the operand of the form, and the flags the form's own rule leaves. -/
theorem accumulatorFormsFrame : Obligations.AccumulatorFormsFrame := by
  intro s t i hi he
  have hf : Framed [.a] [] s.sp s t := by
    obtain ⟨r, hi⟩ | ⟨hu, hi⟩ | ⟨hu, hi⟩ | hi := hi
    · exact accumulatorRegisterForms_framed s r i hi t he
    · exact accumulatorHlForms_framed hu i hi t he
    · exact accumulatorImmForms_framed hu i hi t he
    · exact accumulatorOwnForms_framed s i hi t he
  have hcpl : i = .cpl → t.f.z = s.f.z ∧ t.f.c = s.f.c := by
    rintro rfl
    cases he
    exact ⟨rfl, rfl⟩
  have hcarry : i = .scf ∨ i = .ccf → t.f.z = s.f.z := by
    rintro (rfl | rfl) <;> cases he <;> rfl
  have hdaa : i = .daa → t.f.n = s.f.n := by
    rintro rfl
    cases he
    rfl
  exact ⟨hf.regs, flagForms_keep_a he, hcpl, hcarry, hdaa, hf.sp, hf.control, hf.mem⟩

/-! ### The forms of one register -/

/-- A one-operand operation on a register, with its flags. -/
theorem onRegister_framed {r : Reg8} {o : ByteResult} {s : State} {x : Word} {n : Nat} {k : Hook} :
    EveryNext (Framed [r] [] s.sp s) ((onRegister r o s).commit x n k) :=
  .commit (.setFlags (.setReg .refl))

theorem oneRegisterForms_framed (s : State) (r : Reg8) (n : Fin 8) :
    ∀ i ∈ ([.incR r, .decR r, .rlcR r, .rrcR r, .rlR r, .rrR r, .slaR r, .sraR r, .swapR r, .srlR r, .bitR n r,
      .resR n r, .setR n r] : List Instr), EveryNext (Framed [r] [] s.sp s) (exec i s) := by
  simp only [List.forall_mem_cons]
  refine ⟨?_, ?_, ?_, ?_, ?_, ?_, ?_, ?_, ?_, ?_, .commit (.setFlags .refl), ?_, ?_, nofun⟩
  all_goals exact onRegister_framed

/-- Settles O56: the frame, the register BIT only reads, and the flags by the law of the rows. -/
theorem oneRegisterFormsFrame : Obligations.OneRegisterFormsFrame := by
  intro s t i r n hi he
  have hf := oneRegisterForms_framed s r n i hi t he
  have hbit : i = .bitR n r → t.reg r = s.reg r := by
    rintro rfl
    have hb : EveryNext (Framed [] [] s.sp s) (exec (.bitR n r) s) := .commit (.setFlags .refl)
    exact (hb t he).regs r List.not_mem_nil
  have hflags : i = .resR n r ∨ i = .setR n r → t.f = s.f := by
    rintro (rfl | rfl) <;> exact exec_keepsFlags he not_false
  have hcarry : i = .incR r ∨ i = .decR r ∨ i = .bitR n r → t.f.c = s.f.c := by
    rintro (rfl | rfl | rfl) <;> exact exec_keepsCarry he nofun not_false
  exact ⟨hf.regs, hbit, hflags, hcarry, hf.sp, hf.control, hf.mem⟩

/-! ### The forms whose destination is a register or a pair -/

/-- A frame that stores nothing, in the terms of O57, with the law of the flags. -/
theorem Framed.destination {i : Instr} {W : List Reg8} {sp : Word} {s t : State} {spMay flagsMay : Bool}
    (hf : EveryNext (Framed W [] sp s) (exec i s)) (hsp : spMay = false → sp = s.sp)
    (hi : flagsMay = false → ¬i.MayChangeFlags) (he : exec i s = .next t) :
    regsKept W s t ∧ (spMay = false → t.sp = s.sp) ∧ (flagsMay = false → t.f = s.f) ∧ controlKept s t ∧
      memKept [] s t := by
  obtain ⟨hregs, hmem, ht, hctl⟩ := hf t he
  exact ⟨hregs, fun h => ht.trans (hsp h), fun h => exec_keepsFlags he (hi h), hctl, hmem⟩

/-- A form that writes one pair of the selector `rp` keeps the stack pointer unless it is that pair. -/
theorem Framed.pairDestination {i : Instr} {p : Rp} {v : Word} {s t : State}
    (hf : EveryNext (Framed (rpRegs p) [] (if p = .sp then v else s.sp) s) (exec i s)) (hi : ¬i.MayChangeFlags)
    (he : exec i s = .next t) :
    regsKept (rpRegs p) s t ∧ (decide (p = .sp) = false → t.sp = s.sp) ∧ (false = false → t.f = s.f) ∧
      controlKept s t ∧ memKept [] s t :=
  Framed.destination hf (fun h => if_neg (of_decide_eq_false h)) (fun _ => hi) he

/-- Settles O57: each form by the chain of its operations. -/
theorem registerDestinationFrame : Obligations.RegisterDestinationFrame := by
  intro s t rd rs p kept
  have load {i : Instr} {W : List Reg8} (hi : ¬i.MayChangeFlags)
      (hf : EveryNext (Framed W [] s.sp s) (exec i s)) : kept i W false false :=
    Framed.destination hf (fun _ => rfl) fun _ => hi
  exact ⟨
    -- `LD r,x`
    load not_false (.commit (.setReg .refl)), load not_false (.commit (.setReg (.imm8 .refl))),
    load not_false (.commit (.setReg (.memRead .refl))),
    -- `LD A,(rr)`, `LD A,(nn)` and the high page
    load not_false (.commit (.loadAcc .refl)), load not_false (.commit (.loadAcc .refl)),
    load not_false (.commit (.loadAcc (.imm16 .refl))), load not_false (.commit (.loadAcc (.imm8 .refl))),
    load not_false (.commit (.loadAcc .refl)),
    -- `(HL+)` and `(HL-)`
    load not_false (.commit (.setHl (.loadAcc .refl))), load not_false (.commit (.setHl (.loadAcc .refl))),
    -- the forms on a pair
    Framed.pairDestination (.commit (.setRp (.imm16 .refl))) not_false,
    Framed.pairDestination (.commit (.setRp .refl)) not_false,
    Framed.pairDestination (.commit (.setRp .refl)) not_false,
    -- `LD SP,HL` and the 16-bit additions
    Framed.destination (.commit (.setSp .refl)) nofun fun _ => not_false,
    Framed.destination (.commit (.setFlags (.setHl .refl))) (fun _ => rfl) nofun,
    Framed.destination (.commit (.setFlags (.setSp (.imm8 .refl)))) nofun nofun,
    Framed.destination (.commit (.setFlags (.setHl (.imm8 .refl)))) (fun _ => rfl) nofun⟩

/-! ### The storing forms -/

/-- What O58 says of a form that stores at `a`: `unwired` is the one way its step can end in the latch. -/
def StoredAt (W : List Reg8) (a : Word) (unwired : Prop) (s t : State) : Prop :=
  regsKept W s t ∧ memKept [a] s t ∧ t.sp = s.sp ∧ t.params = s.params ∧ (t.latch = s.latch ∨ unwired)

theorem Framed.storedAt {W : List Reg8} {s t : State} {a : Word} {unwired : Prop} (hf : Framed W [a] s.sp s t) :
    StoredAt W a unwired s t :=
  ⟨hf.regs, hf.mem, hf.sp, hf.control.2, .inl hf.control.1⟩

/-- A read-modify-write of the byte at HL (R57, R58). -/
theorem Framed.readModifyWrite {s : State} {v : Byte} {g : Flags} :
    Framed [] [s.hl] s.sp s (((s.memRead s.hl).2.memWrite s.hl v).setFlags g) :=
  .setFlags (.memWrite (.memRead .refl))

/-- `INC (HL)` and `DEC (HL)`: the step stores at HL, or the operand path is unwired and it only latches (R122). -/
theorem incDecHl_storedAt {i : Instr} {op : Byte} {g : Byte → Flags → ByteResult} {s : State} {q : Prop} (hq : q) :
    EveryNext (StoredAt [] s.hl (s.params.unwired.incDec8HlInd = true ∧ q) s) (incDecHl i op g s) :=
  .ite (fun hu => .next ⟨fun _ _ => State.failed_reg .., fun _ _ => rfl, rfl, rfl, .inr ⟨hu, hq⟩⟩)
    fun _ => (Framed.commit .readModifyWrite).mono fun _ => Framed.storedAt

/-- The forms that store at HL and move no pointer. -/
theorem hlForms_storedAt (s : State) (r : Reg8) (n : Fin 8) :
    ∀ i ∈ ([.ldHlR r, .ldHlN, .incHl, .decHl, .rlcHl, .rrcHl, .rlHl, .rrHl, .slaHl, .sraHl, .swapHl, .srlHl, .resHl n,
      .setHl n] : List Instr), EveryNext
        (StoredAt [] s.hl (s.params.unwired.incDec8HlInd = true ∧ (i = .incHl ∨ i = .decHl)) s) (exec i s) := by
  have framed {r : Result} {u : Prop} (hf : EveryNext (Framed [] [s.hl] s.sp s) r) :
      EveryNext (StoredAt [] s.hl u s) r := hf.mono fun _ => Framed.storedAt
  simp only [List.forall_mem_cons]
  refine ⟨framed (.commit (.memWrite .refl)), framed (.commit (.memWrite (.imm8 .refl))),
    incDecHl_storedAt (.inl trivial), incDecHl_storedAt (.inr trivial), ?_, ?_, ?_, ?_, ?_, ?_, ?_, ?_, ?_, ?_, nofun⟩
  all_goals exact framed (.commit .readModifyWrite)

/-- The storing forms that are loads, RES or SET keep every flag. -/
theorem storingForms_keepFlags (r : Reg8) (n : Fin 8) :
    ∀ i ∈ ([.ldHlR r, .ldHlN, .ldHliA, .ldHldA, .ldBcA, .ldDeA, .ldNnA, .ldhNA, .ldhCA, .resHl n, .setHl n] :
      List Instr), ¬i.MayChangeFlags := by
  simp [Instr.MayChangeFlags]

/-- Settles O58: each form by the chain of its operations, the flags by the law of the rows. -/
theorem storingFormsFrame : Obligations.StoringFormsFrame := by
  intro s t a r n kept flagsKept
  have store {i : Instr} {addr : Word} {W : List Reg8} (hf : EveryNext (Framed W [addr] s.sp s) (exec i s)) :
      kept i addr W := by
    rintro he rfl
    exact (hf t he).storedAt
  have hhl : ∀ i ∈ ([.ldHlR r, .ldHlN, .incHl, .decHl, .rlcHl, .rrcHl, .rlHl, .rrHl, .slaHl, .sraHl, .swapHl, .srlHl,
      .resHl n, .setHl n] : List Instr), kept i s.hl [] := by
    rintro i hi he rfl
    exact hlForms_storedAt s r n i hi t he
  have hincDec : ∀ i ∈ ([.incHl, .decHl] : List Instr), exec i s = .next t → t.f.c = s.f.c := by
    simp only [List.forall_mem_cons]
    exact ⟨fun he => exec_keepsCarry he nofun not_false, fun he => exec_keepsCarry he nofun not_false, nofun⟩
  have hbit (he : exec (.bitHl n) s = .next t) :
      regsKept [] s t ∧ memKept [] s t ∧ t.f.c = s.f.c ∧ t.sp = s.sp ∧ controlKept s t := by
    have hb : EveryNext (Framed [] [] s.sp s) (exec (.bitHl n) s) := .commit (.setFlags (.memRead .refl))
    have hf := hb t he
    exact ⟨hf.regs, hf.mem, exec_keepsCarry he nofun not_false, hf.sp, hf.control⟩
  have hsp (he : exec .ldNnSp s = .next t) :
      regsKept [] s t ∧ memKept [s.imm16.1, s.imm16.1 + 1] s t ∧ t.f = s.f ∧ t.sp = s.sp ∧ controlKept s t := by
    have hw : EveryNext (Framed [] [s.imm16.1, s.imm16.1 + 1] s.sp s) (exec .ldNnSp s) :=
      .commit (.memWrite (.memWrite (.imm16 .refl)))
    have hf := hw t he
    exact ⟨hf.regs, hf.mem, exec_keepsFlags he not_false, hf.sp, hf.control⟩
  exact ⟨hhl,
    -- `(HL+)` and `(HL-)`
    store (.commit (.setHl (.memWrite .refl))), store (.commit (.setHl (.memWrite .refl))),
    -- `(BC)`, `(DE)`, `(nn)` and the high page
    store (.commit (.memWrite .refl)), store (.commit (.memWrite .refl)), store (.commit (.memWrite (.imm16 .refl))),
    store (.commit (.memWrite (.imm8 .refl))), store (.commit (.memWrite .refl)),
    fun i hi he => exec_keepsFlags he (storingForms_keepFlags r n i hi), hincDec, hbit, hsp⟩

end Sys2Proof.Machine
end

section
/-! Memory and the bus (spec/20_memory.md R57, R60, R63, R65, R68). Canonical memories are fixed by their bytes.
`Transacted` gathers what the transactions of an instruction, and of a step, say of memory and of the reads; the
statements about the bus are read off it. -/

namespace Sys2Proof.Machine

/-! ### Canonical memories with the same bytes -/

@[simp] theorem Memory.read_head (k : Nat) (v : Byte) (m : Memory) : Memory.read ((k, v) :: m) k = v := if_pos rfl

theorem Memory.read_tail {k a : Nat} (v : Byte) (m : Memory) (h : k < a) :
    Memory.read ((k, v) :: m) a = Memory.read m a := if_neg (Nat.ne_of_lt h)

/-- The first entry of a canonical memory sets it apart from every memory whose entries start later. -/
theorem Memory.read_head_ne {lo k : Nat} {v : Byte} {m m' : Memory} (h : Memory.wfFrom lo ((k, v) :: m) = true)
    (h' : Memory.wfFrom (k + 1) m' = true) : Memory.read ((k, v) :: m) k ≠ Memory.read m' k := by
  obtain ⟨-, -, hv, -⟩ := Memory.wfFrom_cons.1 h
  rw [Memory.read_head, Memory.read_below (Nat.lt_succ_self k) h']
  exact hv

/-- Canonical memories from `lo` on with the same bytes from `lo` on have the same entries. -/
theorem Memory.wfFrom_ext {lo : Nat} : ∀ {m m' : Memory}, Memory.wfFrom lo m = true → Memory.wfFrom lo m' = true →
    (∀ a, lo ≤ a → a < 65536 → Memory.read m a = Memory.read m' a) → m = m'
  | [], [], _, _, _ => rfl
  | [], (k', v') :: m', _, h', heq => by
    obtain ⟨hlo, hk, -, -⟩ := Memory.wfFrom_cons.1 h'
    exact absurd (heq k' hlo hk).symm (Memory.read_head_ne h' rfl)
  | (k, v) :: m, [], h, _, heq => by
    obtain ⟨hlo, hk, -, -⟩ := Memory.wfFrom_cons.1 h
    exact absurd (heq k hlo hk) (Memory.read_head_ne h rfl)
  | (k, v) :: m, (k', v') :: m', h, h', heq => by
    obtain ⟨hlo, hk, hv, hm⟩ := Memory.wfFrom_cons.1 h
    obtain ⟨hlo', hk', hv', hm'⟩ := Memory.wfFrom_cons.1 h'
    obtain hlt | rfl | hgt := Nat.lt_trichotomy k k'
    · exact absurd (heq k hlo hk) (Memory.read_head_ne h (Memory.wfFrom_cons.2 ⟨hlt, hk', hv', hm'⟩))
    · obtain rfl : v = v' := by simpa using heq k hlo hk
      have htail : ∀ a, k + 1 ≤ a → a < 65536 → Memory.read m a = Memory.read m' a := fun a hka ha => by
        rw [← Memory.read_tail v m hka, ← Memory.read_tail v m' hka]
        exact heq a (by omega) ha
      rw [Memory.wfFrom_ext hm hm' htail]
    · exact absurd (heq k' hlo' hk').symm (Memory.read_head_ne h' (Memory.wfFrom_cons.2 ⟨hgt, hk, hv, hm⟩))

/-- Settles O24: a write keeps the form, and the bytes of canonical memories fix their entries one after the other. -/
theorem canonicalMemoriesAreEqual : Obligations.CanonicalMemoriesAreEqual := by
  refine ⟨fun m a v h => Memory.wf_write a v h, fun s t hs ht heq => Memory.wfFrom_ext hs ht fun a _ ha => ?_⟩
  have hbyte := heq (BitVec.ofNat 16 a)
  rwa [State.byteAt, State.byteAt, BitVec.toNat_ofNat, Nat.mod_eq_of_lt ha] at hbyte

/-! ### A read after a write -/

theorem State.memRead_of_closed {s : State} (h : s.params.memory = .closed) (x : Word) :
    (s.memRead x).1 = s.byteAt x := State.answer_of_closed h 0 x

theorem State.memRead_of_opened {s : State} {l : List (Nat × Byte)} (h : s.params.memory = .opened l) (x : Word) :
    (s.memRead x).1 = oracleAt l s.reads := State.answer_of_opened h 0 x

/-- Settles O23: the two rules for a byte of memory after a write, and what each reading of memory answers. -/
theorem readReturnsTheLastWrite : Obligations.ReadReturnsTheLastWrite := by
  intro s a v
  have hsame (hm : Memory.wf s.mem = true) : (s.poke a v).byteAt a = v := s.poke_byteAt_same a v hm
  have hother (x : Word) (hx : x ≠ a) : (s.poke a v).byteAt x = s.byteAt x := s.poke_byteAt_other v hx
  refine ⟨fun hm => ⟨hsame hm, hsame hm⟩, fun x hx => ⟨hother x hx, hother x hx⟩, fun hc => ?_, fun l ho x => ?_⟩
  · have hwrite (x : Word) : ((s.memWrite a v).memRead x).1 = (s.poke a v).byteAt x :=
      State.memRead_of_closed (s := s.memWrite a v) hc x
    have hpoke (x : Word) : ((s.poke a v).memRead x).1 = (s.poke a v).byteAt x :=
      State.memRead_of_closed (s := s.poke a v) hc x
    simp only [hwrite, hpoke]
    exact ⟨fun hm => ⟨hsame hm, hsame hm⟩, fun x hx => ⟨hother x hx, hother x hx⟩⟩
  · exact ⟨State.memRead_of_opened (s := s.memWrite a v) ho x, State.memRead_of_opened (s := s.poke a v) ho x⟩

/-! ### What the transactions say -/

/-- The transactions `l` between `s` and `t` account for memory and for the count of reads, and each read of them was
answered as the reading of memory says. -/
structure Transacted (l : List Txn) (s t : State) : Prop where
  mem     : t.mem = replay l s.mem
  reads   : t.reads = s.reads + busReads l
  answers : answered s 0 l

theorem readBudget_le (i : Instr) : readBudget i ≤ 3 := by
  unfold readBudget
  split <;> decide

/-- The transactions an instruction adds, whether it completes or ends in a fatal condition. -/
theorem exec_transacted {i : Instr} {s t : State} (he : exec i s = .next t) :
    ∃ l : List Txn, t.bus = s.bus ++ l ∧ ordered 3 2 l = true ∧ Transacted l s t := by
  obtain ⟨_, ht, hdone | ⟨kind, op, -, rfl⟩⟩ := exec_answer i s <;> cases he.symm.trans ht
  · obtain ⟨l, hbus, hmem, hord, hreads, hans⟩ := hdone.bus
    exact ⟨l, hbus, ordered_mono (readBudget_le i) hord, hmem, hreads, hans⟩
  · exact ⟨[], (List.append_nil _).symm, rfl, rfl, rfl, trivial⟩

/-- The transactions of a step are its bus record, the opcode fetch the first of them. -/
theorem step_transacted {s t : State} (hs : step s = .next t) : Transacted t.bus s t := by
  cases hl : s.latch with
  | some r =>
    rw [step_of_latched s hl] at hs
    cases hs
  | none =>
    have hfetch : answered s 0 [.read s.pc (s.answer 0 s.pc)] := ⟨rfl, trivial⟩
    rw [step_of_running s hl] at hs
    split at hs
    · cases hs
      exact ⟨rfl, rfl, hfetch⟩
    · obtain ⟨l, hbus, -, hmem, hreads, hans⟩ := exec_transacted hs
      rw [hbus]
      refine ⟨hmem, ?_, rfl, answered_shift (State.fetched_answer s _) hans⟩
      rw [hreads, State.fetched_reads, State.fetched_bus, busReads_append, Nat.add_assoc]

/-- Settles O17: what an instruction adds to the bus is ordered. -/
theorem readsPrecedeWrites : Obligations.ReadsPrecedeWrites := by
  intro i s t he
  obtain ⟨l, hbus, hord, -⟩ := exec_transacted he
  obtain ⟨rs, ws, rfl, hparts⟩ := ordered_split hord
  exact ⟨rs, ws, by rw [hbus, List.append_assoc], hparts⟩

/-- Settles O18: the transactions of the step, and the answer of one of its reads under each reading of memory. -/
theorem memoryChangesOnlyByBusWrites : Obligations.MemoryChangesOnlyByBusWrites := by
  intro s t hs
  obtain ⟨hmem, hreads, hans⟩ := step_transacted hs
  refine ⟨hmem, hreads, fun rs ws a v hbus => ?_⟩
  rw [hbus] at hans
  have hv : v = s.answer (busReads rs) a := by simpa using answered_at hans
  exact ⟨fun hc => hv.trans (State.answer_of_closed hc _ _), fun l ho => hv.trans (State.answer_of_opened ho _ _)⟩

/-! ### A store seen by the next step -/

/-- `LD (HL),n` reads its immediate byte and stores it at HL (R185). -/
theorem exec_ldHlN_eq (s : State) :
    exec .ldHlN s = .next (((s.poke s.hl (s.answer 0 (s.pc + 1))).saw
      [.read (s.pc + 1) (s.answer 0 (s.pc + 1)), .write s.hl (s.answer 0 (s.pc + 1))]).ended (s.pc + 2)
      (s.figure .ldHlN true 12)) := by
  change execLdHlN s = _
  simp [execLdHlN]

/-- Under the closed reading, a step of a running block at a byte that memory holds. -/
theorem step_of_byteAt {s : State} {v : Byte} (hrun : s.Running) (hc : s.params.memory = .closed)
    (hv : s.byteAt s.pc = v) :
    step s =
      if v ≠ 0xCB ∧ v ∈ s.params.illegal then
        .next ((s.fetched [.read s.pc v]).failed ⟨.decodeFailure, v, false, s.pc⟩)
      else exec (unprefixedRow v) (s.fetched [.read s.pc v]) := by
  rw [step_of_running s hrun, State.answer_of_closed hc, hv]

/-- Settles O19: the first step is `LD (HL),n`, and the second fetches the byte it left at the new `pc`. -/
theorem storeIsSeenByTheNextStep : Obligations.StoreIsSeenByTheNextStep := by
  intro s hrun hc hm hop hill hhl v
  have himm : (s.fetched [.read s.pc 0x36]).answer 0 (s.pc + 1) = v := State.answer_of_closed hc _ _
  have hfirst := step_of_byteAt hrun hc hop
  rw [if_neg (fun h => hill h.2), show unprefixedRow 0x36 = .ldHlN from rfl, exec_ldHlN_eq, State.fetched_pc, himm,
    State.fetched_hl, hhl] at hfirst
  have hstored : (s.poke (s.pc + 2) v).byteAt (s.pc + 2) = v := s.poke_byteAt_same _ v hm
  exact ⟨_, hfirst, rfl, hstored, step_of_byteAt hrun hc hstored⟩

/-! ### The 16-bit loads -/

/-- Settles O42: the immediate word is its two bytes, low first, and the bytes of `sp` are stored in that order. -/
theorem sixteenBitLoads : Obligations.SixteenBitLoads := by
  intro s p lo hi nn fetched spLo spHi
  have himm : s.imm16 = (nn, fetched) := by rw [State.imm16_eq, mkWord_eq]
  refine ⟨?_, rfl, ?_⟩
  · change execLdRpNn p s = _
    rw [execLdRpNn, himm, State.finish_eq, State.setRp_pc]
    rfl
  · change execLdNnSp s = _
    rw [execLdNnSp, himm]
    simp only [fetched, spLo, spHi, State.memWrite_eq, State.saw_poke, State.saw_saw, State.finish_eq, loByte_eq,
      hiByte_eq]
    rfl

end Sys2Proof.Machine
end

section
/-! The two decode tables and the encoder (spec/30_encoding.md R95 to R101). Every instruction with allowed fields
stands in a table, at the byte the encoder gives it; the bytes without a mapping are read off the contract of R98. -/

namespace Sys2Proof

/-! ### The encoder against the tables -/

/-- The byte of an instruction's encoding selects it in one of the two tables: the fields that the encoder shifts into
place are those the table takes apart. Pair code 3 of `PUSH rr` and `POP rr` is left out, for its words are `PUSH AF`
and `POP AF` (R278 to R281). -/
theorem exists_row_of_fieldsAllowed {i : Instr} (hf : i.fieldsAllowed = true) :
    (∃ op, encode i = [op] ∧ i = unprefixedRow op) ∨ (∃ op, encode i = [0xCB, op] ∧ i = prefixedRow op) := by
  cases i with
  | ldRR rd rs => exact .inl ⟨_, rfl, by cases rd <;> cases rs <;> rfl⟩
  | ldRN r | ldRHl r | ldHlR r | addAR r | adcAR r | subR r | sbcAR r | andR r | xorR r | orR r | cpR r
  | incR r | decR r => exact .inl ⟨_, rfl, by cases r <;> rfl⟩
  | ldRpNn p | incRp p | decRp p | addHlRp p => exact .inl ⟨_, rfl, by cases p <;> rfl⟩
  | jpCcNn cc | jrCcE cc | callCcNn cc | retCc cc => exact .inl ⟨_, rfl, by cases cc <;> rfl⟩
  | rst t => exact .inl ⟨_, rfl, by revert t; decide⟩
  | pushRr q | popRr q =>
    cases q with
    | af => exact absurd hf Bool.false_ne_true
    | bc | de | hl => exact .inl ⟨_, rfl, rfl⟩
  | rlcR r | rrcR r | rlR r | rrR r | slaR r | sraR r | swapR r | srlR r => exact .inr ⟨_, rfl, by cases r <;> rfl⟩
  | rlcHl | rrcHl | rlHl | rrHl | slaHl | sraHl | swapHl | srlHl => exact .inr ⟨_, rfl, rfl⟩
  | bitR n r | resR n r | setR n r => exact .inr ⟨_, rfl, by cases r <;> revert n <;> decide⟩
  | bitHl n | resHl n | setHl n => exact .inr ⟨_, rfl, by revert n; decide⟩
  | _ => exact .inl ⟨_, rfl, rfl⟩

/-- One byte is the encoding of one row: the unprefixed table's (R101). -/
theorem encode_eq_singleton_iff {i : Instr} (hf : i.fieldsAllowed = true) (op : Byte) :
    encode i = [op] ↔ i = unprefixedRow op := by
  refine ⟨fun he => ?_, fun hi => hi ▸ encode_unprefixedRow op⟩
  obtain ⟨op', he', hi⟩ | ⟨op', he', -⟩ := exists_row_of_fieldsAllowed hf <;> cases he'.symm.trans he
  exact hi

/-- 0xCB and a byte are the encoding of one row: the prefixed table's (R101). -/
theorem encode_eq_cb_iff {i : Instr} (hf : i.fieldsAllowed = true) (op : Byte) :
    encode i = [0xCB, op] ↔ i = prefixedRow op := by
  refine ⟨fun he => ?_, fun hi => hi ▸ encode_prefixedRow op⟩
  obtain ⟨op', he', -⟩ | ⟨op', he', hi⟩ := exists_row_of_fieldsAllowed hf <;> cases he'.symm.trans he
  exact hi

/-- Settles O2: the two tables, each against the encoder. -/
theorem everyByteIsTheCodeOfOneRow : Obligations.EveryByteIsTheCodeOfOneRow :=
  fun op _ hf => ⟨encode_eq_singleton_iff hf op, encode_eq_cb_iff hf op⟩

/-! ### Decoding an encoding -/

/-- Every row but the marker is decoded from its encoding: the byte 0xCB alone is the marker's (R99, R293). -/
theorem decode_encode_append {i : Instr} (hf : i.fieldsAllowed = true) (hm : i.isMarker = false) (rest : List Byte) :
    decode (encode i ++ rest) = .ok (i, rest) := by
  obtain ⟨op, he, rfl⟩ | ⟨op, he, rfl⟩ := exists_row_of_fieldsAllowed hf
  · have hop : op ≠ 0xCB := fun h => by simp [(unprefixedRow_isMarker op).2 h] at hm
    rw [he]
    exact decode_cons hop rest
  · rw [he]
    exact decode_prefix op rest

theorem fieldsAllowed_of_noMapping {i : Instr} (h : i.noMapping = true) : i.fieldsAllowed = true := by
  cases i with
  | pushRr | popRr => exact absurd h Bool.false_ne_true
  | _ => rfl

theorem isMarker_of_noMapping {i : Instr} (h : i.noMapping = true) : i.isMarker = false := by
  cases i with
  | prefixCb => exact absurd h Bool.false_ne_true
  | _ => rfl

theorem wellFormed_iff {i : Instr} :
    i.wellFormed = true ↔ i.noMapping = false ∧ i.isMarker = false ∧ i.fieldsAllowed = true := by
  simp [Instr.wellFormed, and_assoc]

/-- Settles O1: a well-formed instruction and a named row with no mapping have allowed fields and are not the marker. -/
theorem decodeOfEncodeIsIdentity : Obligations.DecodeOfEncodeIsIdentity := by
  rintro i rest (hw | hn)
  · obtain ⟨-, hm, hf⟩ := wellFormed_iff.1 hw
    exact decode_encode_append hf hm rest
  · exact decode_encode_append (fieldsAllowed_of_noMapping hn) (isMarker_of_noMapping hn) rest

/-! ### The decoder's contract (R98) -/

/-- Byte 0xCB is not among the eleven (R96, R99). -/
theorem ne_cb_of_mem_illegal {op : Byte} (h : op ∈ Config.illegal) : op ≠ 0xCB := by
  rintro rfl
  exact absurd h (by decide)

theorem decodeByte_unprefixed (illegal : List Byte) (op : Byte) :
    decodeByte illegal op false =
      if op ≠ 0xCB ∧ (op ∈ illegal ∨ op ∈ Config.illegal) then none else some (unprefixedRow op) := by
  have hcond : ((unprefixedRow op).noMapping || (!false && op != 0xCB && illegal.contains op)) = true ↔
      op ≠ 0xCB ∧ (op ∈ illegal ∨ op ∈ Config.illegal) := by
    have hne := ne_cb_of_mem_illegal (op := op)
    simp only [Bool.or_eq_true, Bool.and_eq_true, unprefixedRow_noMapping, bne_iff_ne, List.contains_iff_mem,
      Bool.not_false, true_and]
    tauto
  exact if_congr hcond rfl rfl

theorem noMapping_of_isPrefixed {i : Instr} (h : i.isPrefixed = true) : i.noMapping = false := by
  cases i with
  | illegalD3 | illegalDB | illegalDD | illegalE3 | illegalE4 | illegalEB | illegalEC | illegalED | illegalF4
  | illegalFC | illegalFD => exact absurd h Bool.false_ne_true
  | _ => rfl

theorem decodeByte_prefixed (illegal : List Byte) (op : Byte) :
    decodeByte illegal op true = some (prefixedRow op) := by
  simp [decodeByte, noMapping_of_isPrefixed (prefixedRow_isPrefixed op)]

/-- Settles O4: the decoder's contract, for the first byte and for the byte after 0xCB. -/
theorem noMappingExactlyForIllegal : Obligations.NoMappingExactlyForIllegal := by
  intro illegal op
  rw [decodeByte_unprefixed]
  refine ⟨?_, fun hmapped => ?_, decodeByte_prefixed illegal op⟩
  · simp only [ite_eq_left_iff, reduceCtorEq, imp_false, not_not]
  · exact if_neg fun h => hmapped (if_pos h)

end Sys2Proof
end

section
/-! The arithmetic instructions (spec/40_alu.md). The ALU helpers once more, with their values as exact sums reduced
modulo 256 or 65536 and their flags as conditions on the operands; an instruction's meaning is then its helper, written
back and ended. -/

namespace Sys2Proof.Machine

/-! ### The helpers in exact arithmetic -/

/-- The test that sets `Z`, on a result narrowed to a byte. -/
theorem ofNat_beq_zero (n : Nat) : (BitVec.ofNat 8 n == 0) = decide (n % 256 = 0) := by
  rw [Bool.beq_eq_decide_eq, decide_eq_decide]
  bv_omega

theorem ofNat_mod_256 (n : Nat) : BitVec.ofNat 8 (n % 256) = BitVec.ofNat 8 n := by bv_omega

theorem add8_eq (a v : Byte) (cin : Bool) :
    add8 a v cin = ⟨BitVec.ofNat 8 ((a.toNat + v.toNat + cin.toNat) % 256),
      ⟨decide ((a.toNat + v.toNat + cin.toNat) % 256 = 0), false,
        decide (a.toNat % 16 + v.toNat % 16 + cin.toNat ≥ 16), decide (a.toNat + v.toNat + cin.toNat ≥ 256)⟩⟩ := by
  rw [ofNat_mod_256, ← ofNat_beq_zero]
  rfl

/-- The increment is zero exactly where the byte was 255 (R150). -/
theorem inc8_eq (v : Byte) (f : Flags) :
    inc8 v f = ⟨BitVec.ofNat 8 ((v.toNat + 1) % 256),
      ⟨decide (v.toNat = 255), false, decide (v.toNat % 16 = 15), f.c⟩⟩ := by
  have hval : v + 1 = BitVec.ofNat 8 (v.toNat + 1) := by bv_omega
  have hzero : (v.toNat + 1) % 256 = 0 ↔ v.toNat = 255 := by have := v.isLt; omega
  simp only [inc8, hval, ofNat_mod_256, ofNat_beq_zero, hzero]

/-- The decrement is zero exactly where the byte was 1 (R152). -/
theorem dec8_eq (v : Byte) (f : Flags) :
    dec8 v f = ⟨BitVec.ofNat 8 ((v.toNat + 255) % 256),
      ⟨decide (v.toNat = 1), true, decide (v.toNat % 16 = 0), f.c⟩⟩ := by
  have hval : v - 1 = BitVec.ofNat 8 (v.toNat + 255) := by bv_omega
  have hzero : (v.toNat + 255) % 256 = 0 ↔ v.toNat = 1 := by have := v.isLt; omega
  simp only [dec8, hval, ofNat_mod_256, ofNat_beq_zero, hzero]

theorem word_add_one_eq (v : Word) : v + 1 = BitVec.ofNat 16 ((v.toNat + 1) % 65536) := by bv_omega

theorem word_sub_one_eq (v : Word) : v - 1 = BitVec.ofNat 16 ((v.toNat + 65535) % 65536) := by bv_omega

theorem byte_not_eq (v : Byte) : ~~~v = BitVec.ofNat 8 (255 - v.toNat) := by bv_omega

/-! ### The ends of the instructions -/

/-- A one-operand operation on a register, as the whole step. -/
theorem onRegister_finish (r : Reg8) (o : ByteResult) (s : State) (n : Nat) :
    (onRegister r o s).finish 1 n = .next ({ s.setReg r o.val with f := o.flags }.ended (s.pc + 1) n) := by
  rw [State.finish_eq, onRegister, State.setFlags_pc, State.setReg_pc]
  rfl

/-- A pair written, as the whole step. -/
theorem setRp_finish (p : Rp) (v : Word) (s : State) (n : Nat) :
    (s.setRp p v).finish 1 n = .next ((s.setRp p v).ended (s.pc + 1) n) := by
  rw [State.finish_eq, State.setRp_pc]
  rfl

/-- `INC (HL)` and `DEC (HL)` on a wired path, as the whole step (R151, R153). -/
theorem incDecHl_eq_of_wired {s : State} (hw : s.params.unwired.incDec8HlInd = false) (i : Instr) (op : Byte)
    (g : Byte → Flags → ByteResult) :
    incDecHl i op g s =
      .next ({ (s.poke s.hl (g (s.answer 0 s.hl) s.f).val).saw
        [.read s.hl (s.answer 0 s.hl), .write s.hl (g (s.answer 0 s.hl) s.f).val] with
        f := (g (s.answer 0 s.hl) s.f).flags }.ended (s.pc + 1) (s.figure i true 12)) := by
  rw [incDecHl_wired i op g s hw, onHlByte_eq]
  rfl

/-! ### The statements -/

/-- Settles O26: each form writes back `add8` of the accumulator and its operand, which gives the exact sum. -/
theorem addAndAdcGiveSumAndFlags : Obligations.AddAndAdcGiveSumAndFlags := by
  intro s sum atHl atImm
  have hsum (v : Byte) (cin : Bool) (t : State) : sum v cin t = t.setAcc (add8 s.a v cin) := by
    rw [add8_eq]
    rfl
  simp only [hsum]
  exact ⟨fun _ => rfl, fun _ => rfl,
    fun hw => ⟨aluHlInd_wired _ 0x86 addAcc s hw, aluHlInd_wired _ 0x8E adcAcc s hw⟩,
    fun hw => ⟨aluImm_wired _ 0xC6 addAcc s hw, aluImm_wired _ 0xCE adcAcc s hw⟩⟩

/-- Settles O30: the register forms and the forms on the byte at HL write back `inc8` and `dec8` of the old byte. -/
theorem byteIncrementAndDecrement : Obligations.ByteIncrementAndDecrement := by
  intro s up upFlags down downFlags m
  have hinc (v : Byte) : inc8 v s.f = ⟨up v, upFlags v⟩ := inc8_eq v s.f
  have hdec (v : Byte) : dec8 v s.f = ⟨down v, downFlags v⟩ := dec8_eq v s.f
  refine ⟨fun r => ⟨?_, ?_⟩, fun hw => ⟨?_, ?_⟩⟩
  · change execIncR r s = _
    rw [execIncR, hinc, onRegister_finish]
  · change execDecR r s = _
    rw [execDecR, hdec, onRegister_finish]
  · change execIncHl s = _
    rw [execIncHl, incDecHl_eq_of_wired hw, hinc]
  · change execDecHl s = _
    rw [execDecHl, incDecHl_eq_of_wired hw, hdec]

/-- Settles O31: the pair's new value modulo 65536, written back. -/
theorem pairIncrementAndDecrement : Obligations.PairIncrementAndDecrement := by
  intro s p
  rw [← word_add_one_eq, ← word_sub_one_eq]
  exact ⟨setRp_finish .., setRp_finish ..⟩

/-- Settles O36: the complement of a byte is its distance from 255; the flags are written as they stand. -/
theorem complementAndCarryInstructions : Obligations.ComplementAndCarryInstructions := by
  intro s
  rw [← byte_not_eq]
  exact ⟨rfl, rfl, rfl⟩

end Sys2Proof.Machine
end

section
/-! The byte loads and stores (spec/41_load.md sections 2, 3 and 5). Each form reads the immediate bytes it has, then
copies one byte between a register and a register or memory. One lemma per destination says how such a step ends. -/

namespace Sys2Proof.Machine

/-! ### The ends of the instructions -/

/-- A register written, as the whole step. -/
theorem setReg_finish (r : Reg8) (v : Byte) (s : State) (length n : Nat) :
    (s.setReg r v).finish length n = .next ((s.setReg r v).ended (s.pc + BitVec.ofNat 16 length) n) := by
  rw [State.finish_eq, State.setReg_pc]

/-- The accumulator loaded after the transactions `l`, as the whole step: the reads in `l` number this one (R63). -/
theorem saw_loadAcc_finish (s : State) (l : List Txn) (x : Word) (length n : Nat) :
    ((s.saw l).loadAcc x).finish length n =
      .next ({ s.saw (l ++ [Txn.read x (s.answer (busReads l) x)]) with a := s.answer (busReads l) x }.ended
        (s.pc + BitVec.ofNat 16 length) n) := by
  rw [State.loadAcc_eq, State.saw_answer, Nat.add_zero, State.saw_saw]
  rfl

/-- A byte stored after the transactions `l`, as the whole step. -/
theorem saw_memWrite_finish (s : State) (l : List Txn) (x : Word) (v : Byte) (length n : Nat) :
    ((s.saw l).memWrite x v).finish length n =
      .next (((s.poke x v).saw (l ++ [.write x v])).ended (s.pc + BitVec.ofNat 16 length) n) := by
  rw [State.memWrite_eq, State.saw_poke, State.saw_saw]
  rfl

/-- The immediate word is its two bytes, the high one first (R90). -/
theorem imm16_eq_append (s : State) :
    s.imm16 = (s.answer 1 (s.pc + 2) ++ s.answer 0 (s.pc + 1),
      s.saw [.read (s.pc + 1) (s.answer 0 (s.pc + 1)), .read (s.pc + 2) (s.answer 1 (s.pc + 2))]) := by
  rw [State.imm16_eq, mkWord_eq]

/-! ### The statements -/

/-- Settles O37: in each form the source is read first, then the register is written. -/
theorem registerLoads : Obligations.RegisterLoads :=
  fun _ _ _ => ⟨setReg_finish .., setReg_finish .., setReg_finish ..⟩

/-- Settles O39: the forms with no immediate record the write alone, the others after their immediate reads. -/
theorem byteStores : Obligations.ByteStores := by
  intro s n nn one page
  refine ⟨fun _ => rfl, exec_ldHlN_eq s, rfl, rfl, ?_, saw_memWrite_finish s [.read (s.pc + 1) n] .., rfl⟩
  change execLdNnA s = _
  rw [execLdNnA, imm16_eq_append]
  exact saw_memWrite_finish ..

/-- Settles O40: the forms with no immediate make the one read, the others after their immediate reads. -/
theorem accumulatorLoads : Obligations.AccumulatorLoads := by
  intro s n nn from' page
  refine ⟨rfl, rfl, ?_, saw_loadAcc_finish s [.read (s.pc + 1) n] .., rfl⟩
  change execLdANn s = _
  rw [execLdANn, imm16_eq_append]
  exact saw_loadAcc_finish ..

/-- Settles O41: the access at the old HL, then HL moved by one in exact arithmetic modulo 65536. -/
theorem postIncrementAndDecrementLoads : Obligations.PostIncrementAndDecrementLoads := by
  intro s up down load store
  have hup : s.hl + 1 = up := word_add_one_eq s.hl
  have hdown : s.hl - 1 = down := word_sub_one_eq s.hl
  rw [← hup, ← hdown]
  exact ⟨rfl, rfl, rfl, rfl⟩

end Sys2Proof.Machine
end

section
/-! The prefixed set (spec/42_bitmanip.md R224 to R247). Each rotate, shift and swap is described once by where the bits
of its result come from; the two operand forms then write that result back, to a register or to the byte at HL. -/

namespace Sys2Proof.Machine

/-! ### Where the bits come from -/

/-- The result is the byte whose bit `k` is `bit k`, with the flags of R224: Z from the result, N and H clear, C the bit
shifted out. -/
structure MovesBits (o : ByteResult) (out : Bool) (bit : Nat → Bool) : Prop where
  bits  : ∀ k < 8, o.val.getLsbD k = bit k
  flags : o.flags = ⟨decide (o.val.toNat = 0), false, false, out⟩

/-- The test that sets Z, on a result. -/
theorem byte_beq_zero (v : Byte) : (v == 0) = decide (v.toNat = 0) := by
  rw [Bool.beq_eq_decide_eq, decide_eq_decide]
  bv_omega

/-- `shifted` gives the flags of R224, so only the bits of a rotate, shift or swap are left to say. -/
theorem shifted_movesBits {v : Byte} {out : Bool} {bit : Nat → Bool} (h : ∀ k < 8, v.getLsbD k = bit k) :
    MovesBits (shifted v out) out bit :=
  ⟨h, by rw [shifted_flags, shifted_val, byte_beq_zero]⟩

@[simp] theorem bit8_getElem (c : Bool) (k : Nat) (hk : k < 8) : (bit8 c)[k] = (decide (k = 0) && c) := by
  cases c <;> simp [bit8]

theorem rlc8_movesBits (v : Byte) : MovesBits (rlc8 v) (v.getLsbD 7) fun k => v.getLsbD ((k + 7) % 8) :=
  shifted_movesBits fun k hk => by interval_cases k <;> simp

theorem rrc8_movesBits (v : Byte) : MovesBits (rrc8 v) (v.getLsbD 0) fun k => v.getLsbD ((k + 1) % 8) :=
  shifted_movesBits fun k hk => by interval_cases k <;> simp

theorem rl8_movesBits (v : Byte) (cin : Bool) :
    MovesBits (rl8 v cin) (v.getLsbD 7) fun k => if k = 0 then cin else v.getLsbD (k - 1) :=
  shifted_movesBits fun k hk => by interval_cases k <;> simp

theorem rr8_movesBits (v : Byte) (cin : Bool) :
    MovesBits (rr8 v cin) (v.getLsbD 0) fun k => if k = 7 then cin else v.getLsbD (k + 1) :=
  shifted_movesBits fun k hk => by interval_cases k <;> simp

theorem sla8_movesBits (v : Byte) :
    MovesBits (sla8 v) (v.getLsbD 7) fun k => if k = 0 then false else v.getLsbD (k - 1) :=
  shifted_movesBits fun k hk => by interval_cases k <;> simp

theorem sra8_movesBits (v : Byte) :
    MovesBits (sra8 v) (v.getLsbD 0) fun k => if k = 7 then v.getLsbD 7 else v.getLsbD (k + 1) :=
  shifted_movesBits fun k hk => by interval_cases k <;> simp

theorem srl8_movesBits (v : Byte) :
    MovesBits (srl8 v) (v.getLsbD 0) fun k => if k = 7 then false else v.getLsbD (k + 1) :=
  shifted_movesBits fun k hk => by interval_cases k <;> simp

theorem swap8_movesBits (v : Byte) : MovesBits (swap8 v) false fun k => v.getLsbD ((k + 4) % 8) :=
  shifted_movesBits fun k hk => by interval_cases k <;> simp

/-- The tested bit in arithmetic (R242). -/
theorem bitFlags_eq (n : Fin 8) (v : Byte) (f : Flags) :
    bitFlags n v f = ⟨decide (v.toNat / 2 ^ n.val % 2 = 0), false, true, f.c⟩ := by
  have hbit : (!v.getLsbD n.val) = decide (v.toNat / 2 ^ n.val % 2 = 0) := by
    rw [BitVec.getLsbD, Nat.testBit_eq_decide_div_mod_eq, ← decide_not, decide_eq_decide, Nat.mod_two_not_eq_one]
  rw [bitFlags, hbit]

/-! ### The two operand forms -/

/-- A byte moved bit by bit in a register, as the whole step. -/
theorem exists_exec_of_cbReg (g : Byte → Flags → ByteResult) {i : Instr} {r : Reg8} {s : State} {out : Bool}
    {bit : Nat → Bool} (he : exec i s = cbReg i g r s) (h : MovesBits (g (s.reg r) s.f) out bit) :
    ∃ res : Byte, (∀ k < 8, res.getLsbD k = bit k) ∧
      exec i s = .next ({ s.setReg r res with f := ⟨decide (res.toNat = 0), false, false, out⟩ }.ended (s.pc + 2)
        (s.figure i true 8)) :=
  ⟨_, h.bits, by rw [he, cbReg_eq, h.flags]; rfl⟩

/-- A byte moved bit by bit at HL, as the whole step: one read, then one write. -/
theorem exists_exec_of_cbHl (g : Byte → Flags → ByteResult) {i : Instr} {s : State} {out : Bool}
    {bit : Nat → Bool} (he : exec i s = cbHl i g s) (h : MovesBits (g (s.answer 0 s.hl) s.f) out bit) :
    ∃ res : Byte, (∀ k < 8, res.getLsbD k = bit k) ∧
      exec i s = .next ({ (s.poke s.hl res).saw [.read s.hl (s.answer 0 s.hl), .write s.hl res] with
        f := ⟨decide (res.toNat = 0), false, false, out⟩ }.ended (s.pc + 2) (s.figure i true 16)) :=
  ⟨_, h.bits, by rw [he, cbHl_eq, h.flags]; rfl⟩

/-- A byte replaced in a register with no flag changed, as the whole step. -/
theorem cbReg_keepsFlags (i : Instr) (g : Byte → Byte) (r : Reg8) (s : State) :
    cbReg i (fun v f => ⟨g v, f⟩) r s =
      .next ((s.setReg r (g (s.reg r))).ended (s.pc + 2) (s.figure i true 8)) := by
  rw [cbReg_eq]
  cases r <;> rfl

/-- A byte replaced at HL with no flag changed, as the whole step. -/
theorem cbHl_keepsFlags (i : Instr) (g : Byte → Byte) (s : State) :
    cbHl i (fun v f => ⟨g v, f⟩) s =
      .next (((s.poke s.hl (g (s.answer 0 s.hl))).saw
        [.read s.hl (s.answer 0 s.hl), .write s.hl (g (s.answer 0 s.hl))]).ended (s.pc + 2) (s.figure i true 16)) := by
  rw [cbHl_eq]
  rfl

/-! ### The statements -/

/-- Settles O44: each rotate moves the bits as its `movesBits` lemma says, in a register and at HL. -/
theorem prefixedRotates : Obligations.PrefixedRotates := fun s =>
  ⟨fun _ => exists_exec_of_cbReg (fun v _ => rlc8 v) rfl (rlc8_movesBits _),
    exists_exec_of_cbHl (fun v _ => rlc8 v) rfl (rlc8_movesBits _),
    fun _ => exists_exec_of_cbReg (fun v _ => rrc8 v) rfl (rrc8_movesBits _),
    exists_exec_of_cbHl (fun v _ => rrc8 v) rfl (rrc8_movesBits _),
    fun _ => exists_exec_of_cbReg (fun v f => rl8 v f.c) rfl (rl8_movesBits _ s.f.c),
    exists_exec_of_cbHl (fun v f => rl8 v f.c) rfl (rl8_movesBits _ s.f.c),
    fun _ => exists_exec_of_cbReg (fun v f => rr8 v f.c) rfl (rr8_movesBits _ s.f.c),
    exists_exec_of_cbHl (fun v f => rr8 v f.c) rfl (rr8_movesBits _ s.f.c)⟩

/-- Settles O45: each shift, and the swap, moves the bits as its `movesBits` lemma says, in a register and at HL. -/
theorem prefixedShiftsAndSwap : Obligations.PrefixedShiftsAndSwap := fun _ =>
  ⟨fun _ => exists_exec_of_cbReg (fun v _ => sla8 v) rfl (sla8_movesBits _),
    exists_exec_of_cbHl (fun v _ => sla8 v) rfl (sla8_movesBits _),
    fun _ => exists_exec_of_cbReg (fun v _ => sra8 v) rfl (sra8_movesBits _),
    exists_exec_of_cbHl (fun v _ => sra8 v) rfl (sra8_movesBits _),
    fun _ => exists_exec_of_cbReg (fun v _ => srl8 v) rfl (srl8_movesBits _),
    exists_exec_of_cbHl (fun v _ => srl8 v) rfl (srl8_movesBits _),
    fun _ => exists_exec_of_cbReg (fun v _ => swap8 v) rfl (swap8_movesBits _),
    exists_exec_of_cbHl (fun v _ => swap8 v) rfl (swap8_movesBits _)⟩

/-- Settles O46: `BIT` writes `bitFlags` alone; `RES` and `SET` write back the byte with the one bit changed. -/
theorem bitTestResetSet : Obligations.BitTestResetSet := by
  intro s n r m test changed stored
  have htest (v : Byte) : test v = bitFlags n v s.f := (bitFlags_eq n v s.f).symm
  rw [htest, htest]
  exact ⟨rfl, rfl,
    ⟨_, resBit_getLsbD n _, cbReg_keepsFlags ..⟩, ⟨_, setBit_getLsbD n _, cbReg_keepsFlags ..⟩,
    ⟨_, resBit_getLsbD n _, cbHl_keepsFlags ..⟩, ⟨_, setBit_getLsbD n _, cbHl_keepsFlags ..⟩⟩

end Sys2Proof.Machine
end

section
/-! The jumps, the calls, the returns and the stack (spec/43_control_flow.md). A push and a pop as whole steps and the
rules for a stack pair come first; a conditional transfer is one step whose end the condition chooses; a round trip is a
push and the pop that undoes it. -/

namespace Sys2Proof.Machine

/-! ### The push and the pop -/

@[simp] theorem State.push16_sp (s : State) (v : Word) : (s.push16 v).sp = s.sp - 2 := rfl

@[simp] theorem State.pop16_f (s : State) : s.pop16.2.f = s.f := rfl

/-- The popped word is its two bytes, the high one first (R262). -/
theorem pop16_eq_append (s : State) :
    s.pop16 = (s.answer 1 (s.sp + 1) ++ s.answer 0 s.sp,
      { s.saw [.read s.sp (s.answer 0 s.sp), .read (s.sp + 1) (s.answer 1 (s.sp + 1))] with sp := s.sp + 2 }) := by
  rw [State.pop16_eq, mkWord_eq]

/-- A word of two bytes pushed, as the whole step. -/
theorem push16_mkWord_finish (s : State) (hi lo : Byte) (n : Nat) :
    (s.push16 (mkWord hi lo)).finish 1 n =
      .next (({ ((s.poke (s.sp - 1) hi).poke (s.sp - 2) lo).saw [.write (s.sp - 1) hi, .write (s.sp - 2) lo] with
        sp := s.sp - 2 } : State).ended (s.pc + 1) n) := by
  rw [State.push16_eq, hiByte_mkWord, loByte_mkWord]
  rfl

/-- A popped pair, as the whole step: the pop itself leaves `pc`. -/
theorem setRp2_pop16_finish (q : Rp2) (s : State) (n : Nat) :
    (s.pop16.2.setRp2 q s.pop16.1).finish 1 n = .next ((s.pop16.2.setRp2 q s.pop16.1).ended (s.pc + 1) n) := by
  rw [State.finish_eq, State.setRp2_pc, State.pop16_eq]
  rfl

/-! ### A stack pair -/

/-- A pair given the word it holds changes nothing. -/
theorem setRp2_rp2 (s : State) (q : Rp2) : s.setRp2 q (s.rp2 q) = s := by
  cases q with
  | bc => rw [State.rp2, State.setRp2, State.bc, State.setBc, hiByte_mkWord, loByte_mkWord]
  | de => rw [State.rp2, State.setRp2, State.de, State.setDe, hiByte_mkWord, loByte_mkWord]
  | hl => rw [State.rp2, State.setRp2, State.hl, State.setHl, hiByte_mkWord, loByte_mkWord]
  | af => rw [State.rp2, State.setRp2, State.af, State.setAf, hiByte_mkWord, loByte_mkWord, flagsOfByte_flagsToByte]

theorem setRp2_f {q : Rp2} (hq : q ≠ .af) (s : State) (v : Word) : (s.setRp2 q v).f = s.f := by
  cases q with
  | af => exact absurd rfl hq
  | bc | de | hl => rfl

/-- A pair keeps its word where every register and the flags keep their values. -/
theorem rp2_congr {s t : State} (hreg : ∀ r, t.reg r = s.reg r) (hf : t.f = s.f) (q : Rp2) : t.rp2 q = s.rp2 q := by
  cases q with
  | bc => exact congrArg₂ mkWord (hreg .b) (hreg .c)
  | de => exact congrArg₂ mkWord (hreg .d) (hreg .e)
  | hl => exact congrArg₂ mkWord (hreg .h) (hreg .l)
  | af => exact congrArg₂ mkWord (hreg .a) (congrArg flagsToByte hf)

/-! ### The jumps -/

/-- Settles O47: the immediate word is read, and the condition chooses where the step ends. -/
theorem absoluteJumps : Obligations.AbsoluteJumps := by
  intro s lo hi nn fetched conditional
  have himm : s.imm16 = (nn, fetched) := imm16_eq_append s
  have hcond (cc : Cond) : conditional cc (condHolds cc s.f) := by
    change execJpCcNn cc s = _
    rw [execJpCcNn, himm, apply_ite Host.Outcome.next]
    rfl
  refine ⟨?_, hcond .nz, hcond .z, hcond .nc, hcond .c, ?_⟩
  · change execJpNn s = _
    rw [execJpNn, himm]
    rfl
  · change execJpHl s = _
    rw [execJpHl, State.hl, mkWord_eq]
    rfl

/-- Settles O48: the target is the signed displacement from `pc + 2`, and the condition chooses where the step ends. -/
theorem relativeJumps : Obligations.RelativeJumps := by
  intro s e target fetched conditional
  have htarget : relTarget s.pc s.imm8.1 = target := relTarget_eq s.pc e
  have hcond (cc : Cond) : conditional cc (condHolds cc s.f) := by
    change execJrCcE cc s = _
    rw [execJrCcE, htarget, apply_ite Host.Outcome.next]
    rfl
  refine ⟨?_, hcond .nz, hcond .z, hcond .nc, hcond .c⟩
  change execJrE s = _
  rw [execJrE, htarget]
  rfl

/-! ### The calls, the returns and the stack -/

/-- Settles O49: the return address is pushed after the immediate reads, which move neither `pc` nor `sp`. -/
theorem callsPushTheReturnAddress : Obligations.CallsPushTheReturnAddress := by
  intro s lo hi nn fetched pushed
  have himm : s.imm16 = (nn, fetched) := imm16_eq_append s
  have hpush (t : State) (v : Word) (ht : t.sp = s.sp) : t.push16 v = pushed t v := by
    rw [State.push16_eq, hiByte_eq, loByte_eq, ht]
  refine ⟨?_, fun cc => ?_, fun n => ?_⟩
  · change execCallNn s = _
    rw [execCallNn, himm, hpush fetched _ rfl]
    rfl
  · change execCallCcNn cc s = _
    rw [execCallCcNn, himm, hpush fetched _ rfl, apply_ite Host.Outcome.next]
    rfl
  · change execRst n s = _
    rw [execRst, hpush s _ rfl, rstVector, Nat.mul_comm]
    rfl

/-- Settles O50: a pop into `pc`; a return not taken ends with no read. -/
theorem returnsPopThePc : Obligations.ReturnsPopThePc := by
  intro s lo hi popped
  have hpop : s.pop16 = (hi ++ lo, popped) := pop16_eq_append s
  refine ⟨?_, fun cc => ?_⟩
  · change execRet s = _
    rw [execRet, hpop]
    rfl
  · change execRetCc cc s = _
    rw [execRetCc, hpop, apply_ite Host.Outcome.next]
    rfl

/-- Settles O51: each pair is a word of two bytes, for AF the accumulator and the flags byte. -/
theorem pushStoresThePair : Obligations.PushStoresThePair := fun _ =>
  ⟨push16_mkWord_finish .., push16_mkWord_finish .., push16_mkWord_finish .., flagsToByte _,
    fun k _ => flagsToByte_getLsbD _ k, push16_mkWord_finish ..⟩

/-- Settles O52: the halves of the popped word are the two bytes read. -/
theorem popRestoresThePair : Obligations.PopRestoresThePair := by
  intro s lo hi popped
  have hpop : s.pop16 = (mkWord hi lo, popped) := State.pop16_eq s
  have hstep (q : Rp2) (n : Nat) : (s.pop16.2.setRp2 q s.pop16.1).finish 1 n =
      .next ((popped.setRp2 q (mkWord hi lo)).ended (s.pc + 1) n) := by
    rw [setRp2_pop16_finish, hpop]
  refine ⟨(hstep .bc _).trans ?_, (hstep .de _).trans ?_, (hstep .hl _).trans ?_, (hstep .af _).trans ?_⟩
  · rw [State.setRp2, State.setBc, hiByte_mkWord, loByte_mkWord]
  · rw [State.setRp2, State.setDe, hiByte_mkWord, loByte_mkWord]
  · rw [State.setRp2, State.setHl, hiByte_mkWord, loByte_mkWord]
  · rw [State.setRp2, State.setAf, hiByte_mkWord, loByte_mkWord]
    rfl

/-! ### The frame -/

section
variable {W : List Reg8} {M : List Word} {sp : Word} {s t : State}

theorem Framed.push16 {v : Word} (h : Framed W [sp - 1, sp - 2] sp s t) :
    Framed W [sp - 1, sp - 2] (sp - 2) s (t.push16 v) := by
  obtain rfl := h.sp
  exact h.memWrite.memWrite.setSp

theorem Framed.pop16 (h : Framed W M sp s t) : Framed W M (sp + 2) s t.pop16.2 := by
  obtain rfl := h.sp
  exact h.read16.setSp

/-- A stack pair written by its selector: its registers, and for AF the flags. -/
theorem Framed.setRp2 {q : Rp2} {v : Word} (h : Framed (rp2Regs q) M sp s t) :
    Framed (rp2Regs q) M sp s (t.setRp2 q v) := by
  cases q with
  | bc => exact Framed.setRp (p := .bc) h
  | de => exact Framed.setRp (p := .de) h
  | hl => exact Framed.setRp (p := .hl) h
  | af => exact (h.setReg (r := .a) (v := hiByte v) (by simp [rp2Regs])).setFlags

end

/-- A pair other than AF is popped with no flag written. -/
theorem popRr_keepsFlags {q : Rp2} (hq : q ≠ .af) : ¬(Instr.popRr q).MayChangeFlags := by
  cases q with
  | af => exact absurd rfl hq
  | bc | de | hl => exact not_false

/-- Settles O59: each form by the chain of its operations, the flags by the law of the rows. -/
theorem stackAndControlFlowFrame : Obligations.StackAndControlFlowFrame := by
  intro s t cc q n kept slot
  have framed {i : Instr} {W : List Reg8} {M : List Word} {sp : Word}
      (hf : EveryNext (Framed W M sp s) (exec i s)) : kept i W M sp := by
    intro he
    obtain ⟨hregs, hmem, hsp, hctl⟩ := hf t he
    exact ⟨hregs, hmem, hsp, hctl⟩
  have hcall : kept (.callCcNn cc) [] (if condHolds cc s.f then slot else [])
      (if condHolds cc s.f then s.sp - 2 else s.sp) := by
    refine framed (.ite (fun h => ?_) fun h => ?_)
    · rw [if_pos h, if_pos h]
      exact .commit (.push16 (.imm16 .refl))
    · rw [if_neg h, if_neg h]
      exact .commit (.imm16 .refl)
  have hret : kept (.retCc cc) [] [] (if condHolds cc s.f then s.sp + 2 else s.sp) := by
    refine framed (.ite (fun h => ?_) fun h => ?_)
    · rw [if_pos h]
      exact .commit (.pop16 .refl)
    · rw [if_neg h]
      exact .commit .refl
  have hflags : ∀ i ∈ ([.pushRr q, .pushAf, .callNn, .callCcNn cc, .rst n, .ret, .retCc cc, .jpNn, .jpCcNn cc, .jpHl,
      .jrE, .jrCcE cc] : List Instr), ¬i.MayChangeFlags := by
    simp only [List.forall_mem_cons]
    exact ⟨not_false, not_false, not_false, not_false, not_false, not_false, not_false, not_false, not_false, not_false,
      not_false, not_false, nofun⟩
  exact ⟨
    -- `PUSH`, `CALL` and `RST`
    framed (.commit (.push16 .refl)), framed (.commit (.push16 .refl)), framed (.commit (.push16 (.imm16 .refl))),
    framed (.commit (.push16 .refl)), hcall,
    -- `RET` and `POP`
    framed (.commit (.pop16 .refl)), hret, framed (.commit (.setRp2 (.pop16 .refl))),
    framed (.commit (.setRp2 (q := .af) (.pop16 .refl))),
    -- the jumps
    framed (.commit (.imm16 .refl)), framed (.ite (fun _ => .commit (.imm16 .refl)) fun _ => .commit (.imm16 .refl)),
    framed (.commit .refl), framed (.commit (.imm8 .refl)),
    framed (.ite (fun _ => .commit (.imm8 .refl)) fun _ => .commit (.imm8 .refl)),
    fun i hi he => exec_keepsFlags he (hflags i hi), fun hq he => exec_keepsFlags he (popRr_keepsFlags hq)⟩

/-! ### The round trips -/

theorem sub_two_add_one (x : Word) : x - 2 + 1 = x - 1 := by bv_omega

/-- In canonical memory the bytes of the slot are those of the word pushed. -/
theorem push16_byteAt {s : State} (hm : Memory.wf s.mem = true) (v : Word) :
    (s.push16 v).byteAt (s.sp - 1) = hiByte v ∧ (s.push16 v).byteAt (s.sp - 2) = loByte v := by
  have hne : s.sp - 1 ≠ s.sp - 2 := by bv_omega
  let upper := s.poke (s.sp - 1) (hiByte v)
  have hhi : (upper.poke (s.sp - 2) (loByte v)).byteAt (s.sp - 1) = hiByte v :=
    (upper.poke_byteAt_other _ hne).trans (s.poke_byteAt_same _ _ hm)
  exact ⟨hhi, upper.poke_byteAt_same _ _ (s.poke_wf _ _ hm)⟩

/-- Under the closed reading, over canonical memory, the word pushed last is the word popped (R262). -/
theorem pop16_push16_ended {s : State} (hc : s.params.memory = .closed) (hm : Memory.wf s.mem = true) (v x : Word)
    (n : Nat) : ((s.push16 v).ended x n).pop16.1 = v := by
  have hans (k : Nat) (y : Word) : ((s.push16 v).ended x n).answer k y = (s.push16 v).byteAt y :=
    State.answer_of_closed (s := (s.push16 v).ended x n) hc k y
  obtain ⟨hhi, hlo⟩ := push16_byteAt hm v
  rw [State.pop16_eq, State.ended_sp, State.push16_sp, sub_two_add_one, hans, hans, hhi, hlo, mkWord_hiByte_loByte]

/-- A pop moves `sp` back to where it was before the push. -/
theorem Framed.pop16_push16_ended {W : List Reg8} {s t : State} {v x : Word} {n : Nat}
    (h : Framed W [s.sp - 1, s.sp - 2] s.sp s t) :
    Framed W [s.sp - 1, s.sp - 2] s.sp s ((t.push16 v).ended x n).pop16.2 := by
  have hpop := (h.push16.commit (t := t.push16 v) (x := x) (n := n) (k := .none) _ rfl).pop16
  rwa [BitVec.sub_add_cancel] at hpop

/-- What O53 says of the state `u` a push and a pop of the pair `q` lead to from `s`. -/
def PairRestored (q : Rp2) (s u : State) : Prop :=
  u.sp = s.sp ∧ regsKept (rp2Regs q) s u ∧ (q ≠ .af → u.f = s.f) ∧
    (s.params.memory = .closed → Memory.wf s.mem = true → u.rp2 q = s.rp2 q ∧ (∀ r, u.reg r = s.reg r) ∧ u.f = s.f)

/-- A pop of the pair that was pushed: under the closed reading it writes back the word the pair holds. -/
theorem pairRestored_of_push_pop (q : Rp2) {s t : State} {x y : Word} {n m : Nat}
    (ht : (s.push16 (s.rp2 q)).ended x n = t) :
    PairRestored q s ((t.pop16.2.setRp2 q t.pop16.1).ended y m) := by
  have hf {W : List Reg8} : Framed W [s.sp - 1, s.sp - 2] s.sp s t.pop16.2 := ht ▸ Framed.refl.pop16_push16_ended
  have hflags : t.pop16.2.f = s.f := by rw [State.pop16_f, ← ht, State.ended_f, State.push16_f]
  have hu := hf.setRp2.commit (t := t.pop16.2.setRp2 q t.pop16.1) (x := y) (n := m) (k := .none) _ rfl
  refine ⟨hu.sp, hu.regs, fun hq => ?_, fun hc hm => ?_⟩
  · rw [State.ended_f, setRp2_f hq, hflags]
  have hreg (r : Reg8) : t.pop16.2.reg r = s.reg r := (hf (W := [])).regs r List.not_mem_nil
  have hrp2 : t.pop16.2.rp2 q = s.rp2 q := rp2_congr hreg hflags q
  have hword : t.pop16.1 = t.pop16.2.rp2 q := hrp2 ▸ ht ▸ pop16_push16_ended hc hm ..
  rw [hword, setRp2_rp2]
  exact ⟨(State.ended_rp2 ..).trans hrp2, fun r => (State.ended_reg ..).trans (hreg r), hflags⟩

/-- Settles O53: a push and a pop of one pair, and a call and its return, which push and pop the address after the
call. -/
theorem stackRoundTrips : Obligations.StackRoundTrips := by
  refine ⟨fun q s => ?_, fun s => ?_, fun s => ?_⟩
  · exact ⟨_, _, rfl, setRp2_pop16_finish .., pairRestored_of_push_pop q rfl⟩
  · obtain ⟨hsp, hregs, -, hclosed⟩ := pairRestored_of_push_pop .af rfl
    exact ⟨_, _, rfl, setRp2_pop16_finish .af .., hsp, hregs, hclosed⟩
  · obtain ⟨t, hcall, ht⟩ : ∃ t, exec .callNn s = .next t ∧
        (s.imm16.2.push16 (s.pc + 3)).ended s.imm16.1 (s.figure .callNn true 24) = t := ⟨_, rfl, rfl⟩
    have hret : exec .ret t = .next (t.pop16.2.ended t.pop16.1 (t.figure .ret true 16)) := rfl
    have hf : Framed [] [s.sp - 1, s.sp - 2] s.sp s t.pop16.2 := ht ▸ Framed.refl.imm16.pop16_push16_ended
    exact ⟨t, _, hcall, hret, hf.sp, fun r => (State.ended_reg ..).trans (hf.regs r List.not_mem_nil),
      (exec_keepsFlags hret not_false).trans (exec_keepsFlags hcall not_false),
      fun hc hm => ht ▸ pop16_push16_ended (s := s.imm16.2) hc hm ..⟩

end Sys2Proof.Machine
end

section
/-! The orchestrator (spec/44_orchestrator.md R290, R291, R293): the opcode bytes a step fetches and the row it runs, the
end of a row of the prefixed table, and the `pc` that an instruction commits when it is no taken transfer. -/

namespace Sys2Proof.Machine

/-! ### The step of a decoded byte -/

/-- A step of a running block at a byte the decoder maps runs that byte's row of the unprefixed table (R290). -/
theorem step_of_mapped {s : State} (hrun : s.Running)
    (hmap : decodeByte s.params.illegal (s.answer 0 s.pc) false ≠ none) :
    step s = exec (unprefixedRow (s.answer 0 s.pc)) (s.fetched [.read s.pc (s.answer 0 s.pc)]) := by
  rw [decodeByte_unprefixed] at hmap
  rw [step_of_running s hrun, if_neg fun ⟨hcb, hill⟩ => hmap (if_pos ⟨hcb, .inl hill⟩)]

/-- Byte 0xCB, fetched, reads the byte after it and runs that byte's row of the prefixed table (R293). -/
theorem exec_prefixCb_fetched (s : State) :
    exec .prefixCb (s.fetched [.read s.pc 0xCB]) = exec (prefixedRow (s.answer 1 (s.pc + 1)))
      (s.fetched [.read s.pc 0xCB, .read (s.pc + 1) (s.answer 1 (s.pc + 1))]) := by
  have hnext : (s.fetched [.read s.pc 0xCB]).answer 0 (s.pc + 1) = s.answer 1 (s.pc + 1) := State.fetched_answer ..
  change execPrefixCb _ = _
  rw [execPrefixCb_eq, State.fetched_pc, hnext, State.fetched_saw]
  rfl

/-- Settles O5: after 0xCB the second byte selects the row, after every other byte the first one did. -/
theorem stepRunsTheDecodedInstruction : Obligations.StepRunsTheDecodedInstruction := by
  intro s i rest hrun hmap hdec _
  rw [step_of_mapped hrun hmap]
  by_cases hcb : s.answer 0 s.pc = 0xCB
  · rw [hcb, decode_prefix] at hdec
    cases hdec
    rw [if_pos (prefixedRow_isPrefixed _), hcb]
    exact exec_prefixCb_fetched s
  · rw [decode_cons hcb] at hdec
    cases hdec
    rw [unprefixedRow_isPrefixed]
    rfl

/-! ### The end of a prefixed row -/

/-- Every row of the prefixed table completes two bytes on, with the figure of a register operand or of the byte at HL,
and no hook (R224, R225). -/
theorem exec_isPrefixed_finish {i : Instr} (s : State) (hi : i.isPrefixed = true) :
    ∃ (u : State) (m : Nat), exec i s = u.finish 2 (s.figure i true m) ∧ (m = 8 ∨ m = 16) ∧ u.pc = s.pc ∧
      u.latch = s.latch := by
  cases i with
  | rlcR | rrcR | rlR | rrR | slaR | sraR | swapR | srlR | resR | setR =>
    exact ⟨_, 8, rfl, .inl rfl, State.setReg_pc .., State.setReg_latch ..⟩
  | bitR => exact ⟨_, 8, rfl, .inl rfl, rfl, rfl⟩
  | rlcHl | rrcHl | rlHl | rrHl | slaHl | sraHl | swapHl | srlHl | bitHl | resHl | setHl =>
    exact ⟨_, 16, rfl, .inr rfl, rfl, rfl⟩
  | _ => exact absurd hi Bool.false_ne_true

/-- Settles O6: the read of the second byte, then the end of its row, which the prefixed table always has. -/
theorem prefixRunsTheSecondByte : Obligations.PrefixRunsTheSecondByte := by
  intro s
  have hrow : exec .prefixCb s = _ := execPrefixCb_eq s
  obtain ⟨u, m, hu, hm, hpc, hlatch⟩ := exec_isPrefixed_finish (s.saw [.read (s.pc + 1) (s.answer 0 (s.pc + 1))])
    (prefixedRow_isPrefixed (s.answer 0 (s.pc + 1)))
  refine ⟨hrow, _, _, hrow.trans hu, congrArg (· + 2) hpc, rfl, ?_, hlatch⟩
  obtain rfl | rfl := hm
  · exact .inl rfl
  · exact .inr rfl

/-! ### The committed `pc` -/

/-- Where `r` is a completed step of the instruction `i` in `s`, its `pc` is `i.length` bytes further on (R282). -/
def CommitsLength (i : Instr) (s : State) (r : Result) : Prop :=
  ∀ (t : State) (n : Nat) (k : Hook), r = .next t → t.report = .completed n k →
    t.pc = s.pc + BitVec.ofNat 16 i.length

section
variable {i : Instr} {s t u : State} {m : Nat}

theorem CommitsLength.of_finish (ht : t.pc = s.pc) : CommitsLength i s (t.finish i.length m) := by
  rintro _ _ _ ⟨⟩ -
  exact congrArg (· + BitVec.ofNat 16 i.length) ht

theorem CommitsLength.of_hooked {k : Hook} (hi : i.length = 1) : CommitsLength i s (s.hooked k m) := by
  rintro _ _ _ ⟨⟩ -
  rw [hi]
  rfl

/-- A fatal condition is no completed step (R323). -/
theorem CommitsLength.of_raise {kind : FatalKind} {op : Byte} {p : Bool} :
    CommitsLength i s (t.raise kind op p) := by
  rintro _ _ _ ⟨⟩ ⟨⟩

/-- An operand path that may be unwired raises or ends in sequence (R121, R122). -/
theorem CommitsLength.of_wiring {unwired : Bool} {kind : FatalKind} {op : Byte} {p : Bool} (hu : u.pc = s.pc) :
    CommitsLength i s (if unwired then t.raise kind op p else u.finish i.length m) := by
  cases unwired with
  | true => exact .of_raise
  | false => exact .of_finish hu

/-- A conditional transfer whose condition does not hold. -/
theorem CommitsLength.of_notTaken {c : Bool} {r : Result} (hc : c = false) (hu : u.pc = s.pc) :
    CommitsLength i s (if c then r else u.finish i.length m) := by
  subst hc
  exact .of_finish hu

end

theorem State.push16_pc (s : State) (v : Word) : (s.push16 v).pc = s.pc := by rw [State.push16_eq]; rfl

/-- In the state `s` the instruction is no taken control transfer; byte 0xCB, which runs another row, is left out. -/
def InSequence (i : Instr) (s : State) : Prop :=
  match i with
  | .jpNn | .jpHl | .jrE | .callNn | .ret | .rst _ | .prefixCb => False
  | .jpCcNn cc | .jrCcE cc | .callCcNn cc | .retCc cc => condHolds cc s.f = false
  | _ => True

/-- Each row by its end; the operations before the end leave `pc` alone. -/
theorem exec_commitsLength {i : Instr} {s : State} (hi : InSequence i s) : CommitsLength i s (exec i s) := by
  cases i with
  | jpNn | jpHl | jrE | callNn | ret | rst | prefixCb => exact False.elim hi
  | jpCcNn | jrCcE | callCcNn | retCc => exact .of_notTaken hi rfl
  | nop | halt | di | ei | reti => exact .of_hooked rfl
  | stop | illegalD3 | illegalDB | illegalDD | illegalE3 | illegalE4 | illegalEB | illegalEC | illegalED | illegalF4
  | illegalFC | illegalFD => exact .of_raise
  | addAHl | adcAHl | subHl | sbcAHl | andHl | xorHl | orHl | cpHl
  | addAN | adcAN | subN | sbcAN | andN | xorN | orN | cpN | incHl | decHl => exact .of_wiring rfl
  | ldRR | ldRN | ldRHl | incR | decR
  | rlcR | rrcR | rlR | rrR | slaR | sraR | swapR | srlR | resR | setR => exact .of_finish (State.setReg_pc ..)
  | ldRpNn | incRp | decRp => exact .of_finish (State.setRp_pc ..)
  | popRr => exact .of_finish (State.setRp2_pc ..)
  | pushRr | pushAf => exact .of_finish (State.push16_pc ..)
  | ldHlR | ldHlN | ldABc | ldADe | ldBcA | ldDeA | ldAHli | ldAHld | ldHliA | ldHldA | ldANn | ldNnA | ldhAN | ldhNA
  | ldhAC | ldhCA | ldSpHl | ldHlSpE | ldNnSp
  | addAR | adcAR | subR | sbcAR | andR | xorR | orR | cpR | addHlRp | addSpE | daa | cpl | scf | ccf
  | rlca | rrca | rla | rra | popAf
  | rlcHl | rrcHl | rlHl | rrHl | slaHl | sraHl | swapHl | srlHl | bitR | bitHl | resHl | setHl =>
    exact .of_finish rfl

/-- Settles O16: the committed `pc` as a number. -/
theorem sequentialInstructionsCommitTheirLength : Obligations.SequentialInstructionsCommitTheirLength := by
  intro i s t n k he hr hi
  have hpc : t.pc = s.pc + BitVec.ofNat 16 i.length := exec_commitsLength (show InSequence i s from hi) t n k he hr
  rw [hpc, BitVec.toNat_add, BitVec.toNat_ofNat, Nat.add_mod_mod]

end Sys2Proof.Machine
end

section
/-! The fatal conditions (spec/60_exceptions.md R320 to R325). A step of a running block either completes or latches a
record of the opcode byte it fetched and changes nothing else (`step_cases`); the statements and the invariant follow
from that case split. -/

namespace Sys2Proof.Machine

/-! ### The two ends of a step -/

/-- The state after the opcode fetch of a step (R60 (1), R290). -/
def State.opcodeFetched (s : State) : State := s.fetched [.read s.pc (s.answer 0 s.pc)]

/-- The record of a fatal condition that the opcode byte at `pc` causes (R322). -/
def State.fetchRecord (s : State) (kind : FatalKind) : FaultRecord := ⟨kind, s.answer 0 s.pc, false, s.pc⟩

theorem justified_fetchRecord_decodeFailure (s : State) :
    justified s.params (s.fetchRecord .decodeFailure) ↔ unmappedUnder s.params.illegal (s.answer 0 s.pc) :=
  and_iff_right rfl

theorem justified_fetchRecord_unimplementedOperand (s : State) :
    justified s.params (s.fetchRecord .unimplementedOperand) ↔
      unimplementedUnder s.params.unwired (s.answer 0 s.pc) :=
  and_iff_right rfl

/-- The decoder's contract in the terms of the fatal condition (R96, R98). -/
theorem decodeByte_ne_none_iff (illegal : List Byte) (op : Byte) :
    decodeByte illegal op false ≠ none ↔ ¬unmappedUnder illegal op :=
  not_congr (noMappingExactlyForIllegal illegal op).1

/-- A byte without a mapping ends the step right after its fetch (R321). -/
theorem step_of_unmapped {s : State} (hrun : s.Running) (h : unmappedUnder s.params.illegal (s.answer 0 s.pc)) :
    step s = .next (s.opcodeFetched.failed (s.fetchRecord .decodeFailure)) := by
  rw [step_of_running s hrun]
  split
  · rfl
  next hp =>
    obtain ⟨hcb, hill | hrow⟩ := h
    · exact absurd ⟨hcb, hill⟩ hp
    · exact exec_of_noMapping _ ((unprefixedRow_noMapping _).2 hrow) (encode_unprefixedRow _)

/-- A row raises its own byte's fatal condition, which the spec has for that byte (R321, R324). -/
theorem justified_of_raises {p : Params} {op op' : Byte} {kind : FatalKind} (pc : Word)
    (h : raises (unprefixedRow op) p.unwired kind op') : op' = op ∧ justified p ⟨kind, op, false, pc⟩ := by
  obtain ⟨he, hkind⟩ := h
  obtain rfl : op = op' := List.singleton_inj.1 ((encode_unprefixedRow op).symm.trans he)
  refine ⟨rfl, rfl, ?_⟩
  cases kind with
  | decodeFailure =>
    have hill := (unprefixedRow_noMapping op).1 hkind
    exact ⟨ne_cb_of_mem_illegal hill, .inr hill⟩
  | unimplementedOperand => exact hkind

/-- Every next state of a step: the completed instruction, or a justified record of the byte at `pc`, latched after
the one read (R290, R320 to R324). -/
theorem step_cases {s t : State} (h : step s = .next t) :
    s.Running ∧ (Completed 3 s.opcodeFetched t ∨
      ∃ kind, justified s.params (s.fetchRecord kind) ∧ t = s.opcodeFetched.failed (s.fetchRecord kind)) := by
  cases hl : s.latch with
  | some r => cases (step_of_latched s hl).symm.trans h
  | none =>
    refine ⟨hl, ?_⟩
    by_cases hu : unmappedUnder s.params.illegal (s.answer 0 s.pc)
    · cases (step_of_unmapped hl hu).symm.trans h
      exact .inr ⟨.decodeFailure, (justified_fetchRecord_decodeFailure s).2 hu, rfl⟩
    · have hexec := step_of_mapped hl ((decodeByte_ne_none_iff _ _).2 hu)
      obtain ⟨t', ht', hend⟩ := exec_answer (unprefixedRow (s.answer 0 s.pc)) s.opcodeFetched
      cases h.symm.trans (hexec.trans ht')
      obtain hdone | ⟨kind, op, hraises, rfl⟩ := hend
      · rw [readBudget, unprefixedRow_isPrefixed] at hdone
        exact .inl hdone
      · obtain ⟨rfl, hj⟩ := justified_of_raises s.pc hraises
        exact .inr ⟨kind, hj, rfl⟩

/-- A record in the latch after a step was written by it, for a step starts with the latch empty (R34). -/
theorem step_latched {s t : State} {r : FaultRecord} (h : step s = .next t) (hr : t.latch = some r) :
    justified s.params r ∧ r = s.fetchRecord r.kind := by
  obtain ⟨hrun, hdone | ⟨kind, hj, rfl⟩⟩ := step_cases h
  · cases (hdone.latch.trans hrun).symm.trans hr
  · cases hr
    exact ⟨hj, rfl⟩

/-! ### The unwired operand paths -/

/-- Where the row of a byte is the fatal condition of R324, running it raises that and does nothing else (R121, R122,
R300). -/
theorem exec_of_unimplemented {s : State} {op : Byte} (h : unimplementedUnder s.params.unwired op) :
    exec (unprefixedRow op) s = .next (s.failed ⟨.unimplementedOperand, op, false, s.pc⟩) := by
  obtain rfl | ⟨hu, hop⟩ | ⟨hu, hop⟩ | ⟨hu, hop⟩ := h
  · rfl
  · fin_cases hop <;> exact aluHlInd_unwired _ _ _ s hu
  · fin_cases hop <;> exact aluImm_unwired _ _ _ s hu
  · fin_cases hop <;> exact incDecHl_unwired _ _ _ s hu

/-- A step of a running block at such a byte, where the decoder maps it (R324). -/
theorem step_of_unimplemented {s : State} (hrun : s.Running) (hill : s.answer 0 s.pc ∉ s.params.illegal)
    (h : unimplementedUnder s.params.unwired (s.answer 0 s.pc)) :
    step s = .next (s.opcodeFetched.failed (s.fetchRecord .unimplementedOperand)) := by
  rw [step_of_running s hrun, if_neg fun hunmapped => hill hunmapped.2]
  exact exec_of_unimplemented (s := s.opcodeFetched) h

/-- The prefix byte raises nothing of its own (R293). -/
theorem ne_cb_of_unimplementedUnder {u : Unwired} {op : Byte} (h : unimplementedUnder u op) : op ≠ 0xCB := by
  rintro rfl
  simp [unimplementedUnder] at h

/-! ### The statements -/

/-- Settles O8: what `exec` answers, with no transaction where it raises. -/
theorem everyInstructionCompletesOrFails : Obligations.EveryInstructionCompletesOrFails := by
  intro i s
  obtain ⟨t, ht, hdone | ⟨kind, op, -, rfl⟩⟩ := exec_answer i s
  · obtain ⟨n, k, hreport⟩ := hdone.report
    exact ⟨t, ht, hdone.params, .inl ⟨n, k, hreport, hdone.latch⟩⟩
  · refine ⟨_, ht, rfl, .inr ⟨⟨kind, op, false, s.pc⟩, ?_⟩⟩
    rw [State.failed_bus, List.drop_length, State.saw_nil]

/-- Settles O9: a byte without a mapping fails, and the record in the latch is justified. -/
theorem unmappedByteIsDecodeFailure : Obligations.UnmappedByteIsDecodeFailure := by
  refine fun s hrun => ⟨fun hcb hill => step_of_unmapped hrun ⟨hcb, hill⟩, fun t r ht hr hkind => ?_⟩
  obtain ⟨hj, hrec⟩ := step_latched ht hr
  rw [hrec, hkind] at hj
  exact (justified_fetchRecord_decodeFailure s).1 hj

/-- Settles O10: the record in the latch is justified, and a byte in `ILLEGAL` would have failed as unmapped; where the
decoder maps the byte, its row raises. -/
theorem unimplementedOperandExactlyForUnwiredPaths : Obligations.UnimplementedOperandExactlyForUnwiredPaths := by
  refine fun s hrun => ⟨fun ⟨t, r, ht, hr, hkind⟩ => ?_, fun ⟨hun, hill⟩ => ?_⟩
  · obtain ⟨hj, hrec⟩ := step_latched ht hr
    rw [hrec, hkind] at hj
    have hun := (justified_fetchRecord_unimplementedOperand s).1 hj
    refine ⟨hun, fun hill => ?_⟩
    cases (step_of_unmapped hrun ⟨ne_cb_of_unimplementedUnder hun, .inl hill⟩).symm.trans ht
    cases hr
    cases hkind
  · exact ⟨_, s.fetchRecord .unimplementedOperand, step_of_unimplemented hrun hill hun, rfl, rfl⟩

/-- Settles O11: of the two ends of a step only the latched record outputs one. -/
theorem fatalConditionIsAllOrNothing : Obligations.FatalConditionIsAllOrNothing := by
  intro s t r ht hr
  obtain ⟨-, hdone | ⟨kind, -, rfl⟩⟩ := step_cases ht
  · obtain ⟨n, k, hreport⟩ := hdone.report
    cases hreport.symm.trans hr
  · cases hr
    exact ⟨rfl, rfl, rfl, rfl⟩

/-! ### The invariant -/

/-- A completed step leaves the latch empty, outputs no record, and changes memory by writes alone. -/
theorem Completed.inv {n : Nat} {s t : State} (h : Completed n s t) (hrun : s.Running) (hmem : Memory.wf s.mem = true) :
    t.Inv := by
  have hlatch : t.latch = none := h.latch.trans hrun
  obtain ⟨m, k, hreport⟩ := h.report
  obtain ⟨ts, -, hreplay, -⟩ := h.bus
  refine ⟨by rw [hreplay]; exact replay_wf ts hmem, fun r => ?_, fun r hr => ?_⟩
  · simp [hlatch, hreport]
  · cases hlatch.symm.trans hr

/-- A justified record latched after the opcode fetch agrees with the output and with the read at `pc`. -/
theorem failed_fetchRecord_inv {s : State} {kind : FatalKind} (hmem : Memory.wf s.mem = true)
    (hj : justified s.params (s.fetchRecord kind)) : (s.opcodeFetched.failed (s.fetchRecord kind)).Inv := by
  refine ⟨hmem, fun r => ?_, fun r hr => ?_⟩
  · rw [State.failed_latch, State.failed_report, Option.some.injEq, StepReport.fatal.injEq]
  · cases hr
    exact ⟨hj, rfl, rfl, fun hclosed => State.answer_of_closed (s := s) hclosed 0 s.pc⟩

/-- Settles O20: both ends of a step give the invariant, from canonical memory and the empty latch of a running
block. -/
theorem stepKeepsTheInvariant : Obligations.StepKeepsTheInvariant := by
  intro s t hinv ht
  obtain ⟨hrun, hdone | ⟨kind, hj, rfl⟩⟩ := step_cases ht
  · exact hdone.inv hrun hinv.memory
  · exact failed_fetchRecord_inv hinv.memory hj

end Sys2Proof.Machine
end

section
/-! Reset (spec/70_reset_and_hazards.md R360 to R364): the launch states have the invariant, and what the reset input and
construction set. -/

namespace Sys2Proof.Machine

/-- Before the first step nothing is latched and nothing is output, so only memory's canonical form is asked. -/
theorem State.Inv.of_idle {s : State} (hmem : Memory.wf s.mem = true) (hlatch : s.latch = none)
    (hreport : s.report = .idle) : s.Inv := by
  refine ⟨hmem, fun r => ?_, fun r hr => ?_⟩
  · simp [hlatch, hreport]
  · cases hlatch.symm.trans hr

theorem State.launch_inv (r : ResetRegs) (p : Params) {m : Memory} (hmem : Memory.wf m = true) :
    (State.launch r p m).Inv :=
  .of_idle hmem (State.launch_latch r p m) (State.launch_report r p m)

/-- Settles O21: a launch state is idle, and the state after construction is the one whose memory lists nothing. -/
theorem launchStatesHaveTheInvariant : Obligations.LaunchStatesHaveTheInvariant :=
  ⟨State.launch_inv _ _ State.reset_wf, fun r p _ hmem => State.launch_inv r p hmem⟩

/-- Memory is the external collaborator's: the reset input does not change it (R364). -/
theorem State.assertReset_byteAt (r : ResetRegs) (s : State) (x : Word) : (s.assertReset r).byteAt x = s.byteAt x := rfl

/-- A byte that memory does not list is the initial one (R364). -/
theorem State.launch_nil_byteAt (r : ResetRegs) (p : Params) (x : Word) :
    (State.launch r p []).byteAt x = Memory.initByte := rfl

/-- Settles O22: the reset input gives a launch state with the parameters, the memory and the count of reads there were;
construction gives one with the values the spec takes. -/
theorem resetSetsPcAndEmptiesTheLatch : Obligations.ResetSetsPcAndEmptiesTheLatch := by
  refine ⟨fun r s => ⟨?_, ?_, s.assertReset_byteAt r, ?_, ?_⟩, ?_, ?_, ?_, fun x => ?_⟩
  -- the reset input
  · exact State.launch_pc r s.params s.mem
  · exact State.launch_latch r s.params s.mem
  · exact State.launch_params r s.params s.mem
  · rw [State.assertReset_eq]
  -- construction
  · exact congrArg Params.resetPc (State.launch_params ..)
  · exact State.launch_pc ..
  · exact State.launch_latch ..
  · exact State.launch_nil_byteAt _ _ x

end Sys2Proof.Machine
end

section
/-! The subtractions, comparisons, logic operations and 16-bit additions (spec/40_alu.md sections 3, 4 and 7), their
helpers in exact arithmetic as for the additions above, and the accumulator rotates (spec/42_bitmanip.md section 1). -/

namespace Sys2Proof.Machine

/-! ### The helpers in exact arithmetic -/

/-- The difference modulo 256 and the two borrows (R148). -/
theorem sub8_eq (a v : Byte) (bin : Bool) :
    sub8 a v bin = ⟨BitVec.ofInt 8 (((a.toNat : Int) - v.toNat - bin.toNat) % 256),
      ⟨decide (((a.toNat : Int) - v.toNat - bin.toNat) % 256 = 0), true,
        decide (a.toNat % 16 < v.toNat % 16 + bin.toNat), decide ((a.toNat : Int) - v.toNat - bin.toNat < 0)⟩⟩ := by
  have hval : (sub8 a v bin).val = BitVec.ofInt 8 (((a.toNat : Int) - v.toNat - bin.toNat) % 256) := by
    rw [sub8_val]
    apply BitVec.eq_of_toNat_eq
    simp only [BitVec.toNat_ofInt]
    omega
  have hz : (sub8 a v bin).flags.z = decide (((a.toNat : Int) - v.toNat - bin.toNat) % 256 = 0) := by
    change ((sub8 a v bin).val == 0) = _
    rw [hval, byte_beq_zero, decide_eq_decide, BitVec.toNat_ofInt]
    omega
  rw [← hval, ← hz, ← sub8_c]
  rfl

/-- A comparison is a difference without a borrow-in: zero on equality, borrows where the accumulator is lower. -/
theorem sub8_flags_of_compare (a v : Byte) :
    (sub8 a v false).flags =
      ⟨decide (a = v), true, decide (a.toNat % 16 < v.toNat % 16), decide (a.toNat < v.toNat)⟩ := by
  have hz : (a - v - bit8 false == 0) = decide (a = v) := by
    rw [Bool.beq_eq_decide_eq, decide_eq_decide]
    simp [bit8, BitVec.sub_eq_iff_eq_add]
  rw [← hz]
  rfl

theorem and8_eq (a v : Byte) : and8 a v = ⟨a &&& v, ⟨decide ((a &&& v).toNat = 0), false, true, false⟩⟩ := by
  rw [and8, byte_beq_zero]

theorem xor8_eq (a v : Byte) : xor8 a v = ⟨a ^^^ v, ⟨decide ((a ^^^ v).toNat = 0), false, false, false⟩⟩ := by
  rw [xor8, byte_beq_zero]

theorem or8_eq (a v : Byte) : or8 a v = ⟨a ||| v, ⟨decide ((a ||| v).toNat = 0), false, false, false⟩⟩ := by
  rw [or8, byte_beq_zero]

/-- The sum modulo 65536; H follows `ADDHL_H` (R160). -/
theorem addHl16_eq (mode : AddHlH) (a b : Word) (f : Flags) :
    addHl16 mode a b f = ⟨BitVec.ofNat 16 ((a.toNat + b.toNat) % 65536),
      ⟨decide ((a.toNat + b.toNat) % 65536 = 0), false,
        if mode = .bit11 then decide (a.toNat % 0x1000 + b.toNat % 0x1000 ≥ 0x1000) else f.h,
        decide (a.toNat + b.toNat ≥ 65536)⟩⟩ := by
  have hval : BitVec.ofNat 16 ((a.toNat + b.toNat) % 65536) = BitVec.ofNat 16 (a.toNat + b.toNat) := by bv_omega
  have hz : (BitVec.ofNat 16 (a.toNat + b.toNat) == 0) = decide ((a.toNat + b.toNat) % 65536 = 0) := by
    rw [Bool.beq_eq_decide_eq, decide_eq_decide]
    bv_omega
  rw [hval, ← hz]
  cases mode with
  | bit11 | unchanged => rfl

/-! ### The statements -/

/-- Settles O27: each form writes back `sub8` of the accumulator and its operand, which gives the exact difference. -/
theorem subAndSbcGiveDifferenceAndFlags : Obligations.SubAndSbcGiveDifferenceAndFlags := by
  intro s diff atHl atImm
  have hdiff (v : Byte) (bin : Bool) (t : State) : diff v bin t = t.setAcc (sub8 s.a v bin) := by
    rw [sub8_eq]
    rfl
  simp only [hdiff]
  exact ⟨fun _ => rfl, fun _ => rfl,
    fun hw => ⟨aluHlInd_wired _ 0x96 subAcc s hw, aluHlInd_wired _ 0x9E sbcAcc s hw⟩,
    fun hw => ⟨aluImm_wired _ 0xD6 subAcc s hw, aluImm_wired _ 0xDE sbcAcc s hw⟩⟩

/-- Settles O28: each form writes the flags of the difference alone, and they are those of the comparison. -/
theorem compareWritesOnlyFlags : Obligations.CompareWritesOnlyFlags := by
  intro s cmp
  have hcmp (v : Byte) (t : State) : cmp v t = t.setFlags (sub8 s.a v false).flags := by
    rw [sub8_flags_of_compare]
    rfl
  simp only [hcmp]
  exact ⟨fun _ => rfl, aluHlInd_wired _ 0xBE cpAcc s, aluImm_wired _ 0xFE cpAcc s⟩

/-- Settles O29: each form writes back the helper of its operation. -/
theorem logicOperationsGiveBitsAndFlags : Obligations.LogicOperationsGiveBitsAndFlags := by
  intro s out m n atHl atImm
  have hand (v : Byte) (t : State) : out (s.a &&& v) true t = t.setAcc (and8 s.a v) := by
    rw [and8_eq]
    rfl
  have hxor (v : Byte) (t : State) : out (s.a ^^^ v) false t = t.setAcc (xor8 s.a v) := by
    rw [xor8_eq]
    rfl
  have hor (v : Byte) (t : State) : out (s.a ||| v) false t = t.setAcc (or8 s.a v) := by
    rw [or8_eq]
    rfl
  simp only [hand, hxor, hor]
  exact ⟨fun _ => ⟨rfl, rfl, rfl⟩,
    fun hw => ⟨aluHlInd_wired _ 0xA6 andAcc s hw, aluHlInd_wired _ 0xAE xorAcc s hw,
      aluHlInd_wired _ 0xB6 orAcc s hw⟩,
    fun hw => ⟨aluImm_wired _ 0xE6 andAcc s hw, aluImm_wired _ 0xEE xorAcc s hw,
      aluImm_wired _ 0xF6 orAcc s hw⟩⟩

/-- Settles O32: the pair HL and the flags written from `addHl16`, which gives the exact sum. -/
theorem addToHl : Obligations.AddToHl := by
  intro s p n
  change execAddHlRp p s = _
  rw [execAddHlRp, addHl16_eq]
  rfl

/-- Settles O33: the displacement added as a signed number is the one operation of both forms. -/
theorem stackPointerPlusDisplacement : Obligations.StackPointerPlusDisplacement := by
  intro s e res f atImm
  have hsum : addSpDisp s.sp e = ⟨res, f⟩ := by
    rw [addSpDisp, add_sext16_eq]
  constructor
  · change execAddSpE s = _
    rw [execAddSpE, State.imm8_eq, hsum]
    rfl
  · change execLdHlSpE s = _
    rw [execLdHlSpE, State.imm8_eq, hsum]
    rfl

/-! ### The accumulator rotates -/

/-- A rotate of the accumulator moves bits, with Z cleared, as the whole step (R220 to R223). -/
theorem exists_exec_of_accRotate {i : Instr} {o : ByteResult} {s : State} {out : Bool} {bit : Nat → Bool}
    (he : exec i s = accRotate i o s) (h : MovesBits o out bit) :
    ∃ res : Byte, (∀ k < 8, res.getLsbD k = bit k) ∧
      exec i s = .next ({ s with a := res, f := ⟨false, false, false, out⟩ }.ended (s.pc + 1) (s.figure i true 4)) :=
  ⟨_, h.bits, by rw [he, accRotate_eq, h.flags]⟩

/-- Settles O43: each rotate moves the bits as its `movesBits` lemma says. -/
theorem accumulatorRotates : Obligations.AccumulatorRotates := fun _ =>
  ⟨exists_exec_of_accRotate rfl (rlc8_movesBits _), exists_exec_of_accRotate rfl (rrc8_movesBits _),
    exists_exec_of_accRotate rfl (rl8_movesBits _ _), exists_exec_of_accRotate rfl (rr8_movesBits _ _)⟩

end Sys2Proof.Machine
end

section
/-! `DAA` (spec/40_alu.md section 8): its rule in exact arithmetic, then what it leaves after adding or subtracting two
packed-BCD bytes. The flags and digits it tests hold exactly the decimal carries and borrows of the two digits. -/

namespace Sys2Proof.Machine

/-! ### The rule in exact arithmetic -/

/-- The tens digit of the accumulator is to be corrected upwards (R165). -/
def daaHigh (a : Byte) (f : Flags) : Bool := f.c || decide (a.toNat > 0x99)

/-- The units digit of the accumulator is to be corrected upwards (R165). -/
def daaLow (a : Byte) (f : Flags) : Bool := f.h || decide (a.toNat % 16 > 9)

/-- What `DAA` adds, as a number (R165). -/
def daaAddend (a : Byte) (f : Flags) : Nat :=
  if f.n = false then (if daaHigh a f then 0x60 else 0) + (if daaLow a f then 0x06 else 0)
  else if f.c then (if f.h then 0x9A else 0xA0)
  else (if f.h then 0xFA else 0)

theorem daaAdjust_eq (a : Byte) (f : Flags) : daaAdjust a f = BitVec.ofNat 8 (daaAddend a f) := by
  cases hn : f.n with
  | true =>
    rw [daaAdjust, daaAddend, hn]
    cases f.c <;> cases f.h <;> rfl
  | false =>
    have hadd : daaAdjust a f = (if daaHigh a f then 0x60 else 0) + (if daaLow a f then 0x06 else 0) := by
      rw [daaAdjust, hn]
      rfl
    rw [hadd, daaAddend, hn]
    cases daaHigh a f <;> cases daaLow a f <;> rfl

/-- The adjusted accumulator modulo 256; C is set where the tens digit of a sum is corrected (R165). -/
theorem daa8_eq (a : Byte) (f : Flags) :
    daa8 a f = ⟨BitVec.ofNat 8 ((a.toNat + daaAddend a f) % 256),
      ⟨decide ((a.toNat + daaAddend a f) % 256 = 0), f.n, false, if f.n = false then daaHigh a f else f.c⟩⟩ := by
  have hval : a + daaAdjust a f = BitVec.ofNat 8 (a.toNat + daaAddend a f) := by
    rw [daaAdjust_eq]
    bv_omega
  have hc : (daa8 a f).flags.c = if f.n = false then daaHigh a f else f.c := by
    cases hn : f.n <;> simp [daa8, daaHigh, hn]
  rw [← hc, ofNat_mod_256, ← ofNat_beq_zero, ← hval]
  rfl

/-- Settles O34: the accumulator and the flags written from `daa8`. -/
theorem decimalAdjust : Obligations.DecimalAdjust := by
  intro s hi lo adj res
  change execDaa s = _
  rw [execDaa, daa8_eq]
  rfl

/-! ### After a packed-BCD addition or subtraction -/

/-- The packed-BCD form of a number below 100: the tens digit in the high nibble, the units digit in the low one. -/
def packedBcd (n : Nat) : Nat := 16 * (n / 10) + n % 10

/-- The byte holds the packed-BCD form of a number below 100. -/
structure Packs (a : Byte) (n : Nat) : Prop where
  lt    : n < 100
  toNat : a.toNat = packedBcd n

theorem packedBcd_le {n : Nat} (hn : n < 100) : packedBcd n ≤ 0x99 := by
  have htens : n / 10 ≤ 9 := by omega
  rw [packedBcd]
  omega

theorem packs_ofNat {n : Nat} (hn : n < 100) : Packs (BitVec.ofNat 8 (packedBcd n)) n :=
  ⟨hn, by rw [BitVec.toNat_ofNat, Nat.mod_eq_of_lt ((packedBcd_le hn).trans_lt (by decide))]⟩

theorem packedBcd_eq_zero_iff {n : Nat} : packedBcd n = 0 ↔ n = 0 := by
  rw [packedBcd]
  omega

theorem packedBcd_mod_16 (n : Nat) : packedBcd n % 16 = n % 10 := by
  rw [packedBcd]
  omega

/-- Packed numbers are ordered as the numbers are. -/
theorem packedBcd_lt_iff {m n : Nat} : packedBcd m < packedBcd n ↔ m < n := by
  rw [packedBcd, packedBcd]
  omega

/-- The largest sum of two packed numbers without a decimal carry is the packed 99. -/
theorem packedBcd_add_gt_iff {m n : Nat} : packedBcd m + packedBcd n > 0x99 ↔ m + n ≥ 100 := by
  have htens : m + n < 100 → m / 10 + n / 10 ≤ 9 := by omega
  rw [packedBcd, packedBcd]
  omega

theorem packedBcd_inj {m n : Nat} : packedBcd m = packedBcd n ↔ m = n := by
  rw [packedBcd, packedBcd]
  omega

section
variable {a v : Byte} {x y : Nat} (ha : Packs a x) (hv : Packs v y)
include ha hv

/-- A carry out of the low nibble or a low nibble above 9 is a decimal carry out of the units. -/
theorem daaLow_add8 : daaLow (add8 a v false).val (add8 a v false).flags = decide (x % 10 + y % 10 ≥ 10) := by
  have hax := packedBcd_mod_16 x
  have hvy := packedBcd_mod_16 y
  simp only [daaLow, add8, ha.toNat, hv.toNat, BitVec.toNat_ofNat, Bool.toNat_false, ← Bool.decide_or,
    decide_eq_decide]
  omega

/-- A carry out of the byte or a byte above 0x99 is a decimal carry. -/
theorem daaHigh_add8 : daaHigh (add8 a v false).val (add8 a v false).flags = decide (x + y ≥ 100) := by
  have hx := packedBcd_le ha.lt
  have hy := packedBcd_le hv.lt
  simp only [daaHigh, add8, ha.toNat, hv.toNat, BitVec.toNat_ofNat, Bool.toNat_false, ← Bool.decide_or,
    ← packedBcd_add_gt_iff, decide_eq_decide]
  omega

/-- `DAA` adds 6 for each decimal carry of the sum, in its digit (R165). -/
theorem daaAddend_add8 : daaAddend (add8 a v false).val (add8 a v false).flags =
    (if x + y ≥ 100 then 0x60 else 0) + (if x % 10 + y % 10 ≥ 10 then 0x06 else 0) := by
  have hn : (add8 a v false).flags.n = false := rfl
  simp only [daaAddend, hn, daaHigh_add8 ha hv, daaLow_add8 ha hv, decide_eq_true_eq, if_true]

/-- The flags of the difference are the comparisons of the numbers and of their units. -/
theorem sub8_flags_of_packs :
    (sub8 a v false).flags = ⟨decide (x = y), true, decide (x % 10 < y % 10), decide (x < y)⟩ := by
  have hz : a = v ↔ x = y := by
    rw [← BitVec.toNat_inj, ha.toNat, hv.toNat, packedBcd_inj]
  simp only [sub8_flags_of_compare, hz, ha.toNat, hv.toNat, packedBcd_mod_16, packedBcd_lt_iff]

/-- `DAA` takes 6 off for each decimal borrow of the difference, in its digit (R165). -/
theorem daaAddend_sub8 : daaAddend (sub8 a v false).val (sub8 a v false).flags =
    if x < y then (if x % 10 < y % 10 then 0x9A else 0xA0) else (if x % 10 < y % 10 then 0xFA else 0) := by
  simp only [daaAddend, sub8_flags_of_packs ha hv, decide_eq_true_eq, Bool.true_eq_false, if_false]

theorem daa8_add8_packed :
    daa8 (add8 a v false).val (add8 a v false).flags = ⟨BitVec.ofNat 8 (packedBcd ((x + y) % 100)),
      ⟨decide ((x + y) % 100 = 0), false, false, decide (x + y ≥ 100)⟩⟩ := by
  have hsum : ((add8 a v false).val.toNat + daaAddend (add8 a v false).val (add8 a v false).flags) % 256 =
      packedBcd ((x + y) % 100) := by
    have hx := ha.lt
    have hy := hv.lt
    rw [daaAddend_add8 ha hv, add8_val, BitVec.toNat_ofNat, ha.toNat, hv.toNat, Bool.toNat_false]
    simp only [packedBcd]
    split <;> split <;> omega
  have hn : (add8 a v false).flags.n = false := rfl
  rw [daa8_eq, hsum, hn, if_pos rfl, daaHigh_add8 ha hv]
  simp only [packedBcd_eq_zero_iff]

theorem daa8_sub8_packed :
    daa8 (sub8 a v false).val (sub8 a v false).flags = ⟨BitVec.ofNat 8 (packedBcd ((x + 100 - y) % 100)),
      ⟨decide (x = y), true, false, decide (x < y)⟩⟩ := by
  have hx := ha.lt
  have hy := hv.lt
  have hdiff : ((sub8 a v false).val.toNat + daaAddend (sub8 a v false).val (sub8 a v false).flags) % 256 =
      packedBcd ((x + 100 - y) % 100) := by
    rw [daaAddend_sub8 ha hv, sub8_val, BitVec.toNat_ofInt, ha.toNat, hv.toNat, Bool.toNat_false]
    simp only [packedBcd]
    split <;> split <;> omega
  have hzero : (x + 100 - y) % 100 = 0 ↔ x = y := by omega
  rw [daa8_eq, hdiff]
  simp only [sub8_flags_of_packs ha hv, packedBcd_eq_zero_iff, hzero, Bool.true_eq_false, if_false]

end

/-- Settles O35: `DAA` finds the decimal carries and borrows of `add8` and `sub8` on packed numbers. -/
theorem decimalAdjustCorrectsBcd : Obligations.DecimalAdjustCorrectsBcd := by
  intro s t u r x y hx hy ha hr
  have hpa : Packs s.a x := ha ▸ packs_ofNat hx
  have hpr : Packs (s.reg r) y := hr ▸ packs_ofNat hy
  have hunits (n : Nat) : n % 100 % 10 = n % 10 := Nat.mod_mod_of_dvd n (by decide)
  constructor
  · rintro ⟨⟩ ⟨⟩
    have h := daa8_add8_packed hpa hpr
    rw [packedBcd, hunits] at h
    exact ⟨congrArg (·.val) h, congrArg (·.flags.c) h, congrArg (·.flags.z) h⟩
  · rintro ⟨⟩ ⟨⟩
    have h := daa8_sub8_packed hpa hpr
    rw [packedBcd, hunits] at h
    exact ⟨congrArg (·.val) h, congrArg (·.flags.c) h, congrArg (·.flags.z) h⟩

end Sys2Proof.Machine
end

section
/-! The published words (spec/30_encoding.md R95, R97), the hook output (spec/44_orchestrator.md R295 to R299, R40), and
the instructions and the block that do not complete (spec/60_exceptions.md R321 to R324, spec/10_state.md R34). -/

namespace Sys2Proof.Machine

/-- Settles O3: the words are laid out as bytes and looked up in the tables. -/
theorem publishedWordsDecode : Obligations.PublishedWordsDecode :=
  ⟨rfl, rfl, rfl, rfl, rfl, rfl, rfl, rfl, rfl, rfl, rfl, rfl⟩

/-! ### The hook output -/

/-- Settles O54: a hook instruction ends at once, its one byte further on modulo 65536. -/
theorem hooksChangeNothingElse : Obligations.HooksChangeNothingElse := by
  intro s hook
  simp only [hook, ← word_add_one_eq]
  exact ⟨rfl, rfl, rfl, rfl, rfl⟩

/-- If the step that ended in `t` completed, it output the hook `k`. -/
def OutputsHook (k : Hook) (t : State) : Prop := ∀ n k', t.report = .completed n k' → k' = k

theorem OutputsHook.of_commit {t : State} {x : Word} {n : Nat} {k : Hook} :
    EveryNext (OutputsHook k) (t.commit x n k) := by
  refine .next ?_
  rintro _ _ ⟨⟩
  rfl

/-- A fatal condition outputs no hook (R323). -/
theorem OutputsHook.of_raise {t : State} {kind : FatalKind} {op : Byte} {p : Bool} {k : Hook} :
    EveryNext (OutputsHook k) (t.raise kind op p) := by
  refine .next ?_
  rintro _ _ ⟨⟩

/-- A row of the prefixed table ends with no hook. -/
theorem exec_isPrefixed_outputsHook {i : Instr} (s : State) (hi : i.isPrefixed = true) :
    EveryNext (OutputsHook .none) (exec i s) := by
  obtain ⟨u, m, hu, -⟩ := exec_isPrefixed_finish s hi
  rw [hu]
  exact .of_commit

/-- Settles O15: each row by its ends; byte 0xCB ends as the row of the prefixed table that it runs. -/
theorem hookOutputsAreTheFive : Obligations.HookOutputsAreTheFive := by
  intro i s t n k he
  refine (?_ : EveryNext (OutputsHook _) (exec i s)) t he n k
  clear he
  cases i with
  | nop | halt | di | ei | reti => exact OutputsHook.of_commit
  | prefixCb =>
    have hrow : exec .prefixCb s = _ := execPrefixCb_eq s
    rw [hrow]
    exact exec_isPrefixed_outputsHook _ (prefixedRow_isPrefixed _)
  | rlcR | rlcHl | rrcR | rrcHl | rlR | rlHl | rrR | rrHl | slaR | slaHl | sraR | sraHl | swapR | swapHl | srlR | srlHl
  | bitR | bitHl | resR | resHl | setR | setHl => exact exec_isPrefixed_outputsHook s rfl
  | stop | illegalD3 | illegalDB | illegalDD | illegalE3 | illegalE4 | illegalEB | illegalEC | illegalED | illegalF4
  | illegalFC | illegalFD => exact OutputsHook.of_raise
  | addAHl | adcAHl | subHl | sbcAHl | andHl | xorHl | orHl | cpHl
  | addAN | adcAN | subN | sbcAN | andN | xorN | orN | cpN | incHl | decHl =>
    exact .ite (fun _ => OutputsHook.of_raise) (fun _ => OutputsHook.of_commit)
  | jpCcNn | jrCcE | callCcNn | retCc => exact .ite (fun _ => OutputsHook.of_commit) (fun _ => OutputsHook.of_commit)
  | ldRR | ldRN | ldRHl | ldHlR | ldHlN | ldABc | ldADe | ldBcA | ldDeA | ldAHli | ldAHld | ldHliA | ldHldA | ldANn
  | ldNnA | ldhAN | ldhNA | ldhAC | ldhCA | ldRpNn | ldSpHl | ldHlSpE | ldNnSp
  | addAR | adcAR | subR | sbcAR | andR | xorR | orR | cpR | incR | decR | incRp | decRp | addHlRp | addSpE
  | daa | cpl | scf | ccf | rlca | rrca | rla | rra
  | jpNn | jpHl | jrE | callNn | ret | rst | pushRr | pushAf | popRr | popAf => exact OutputsHook.of_commit

/-! ### What does not complete -/

/-- Settles O7: the step of a latched record, and the empty latch of a launch state. -/
theorem stoppedBlockReportsItsRecord : Obligations.StoppedBlockReportsItsRecord :=
  fun s _ hr => ⟨step_of_latched s hr, fun regs => State.launch_latch regs s.params s.mem⟩

/-- Settles O12: each form raises by the path its operand takes. -/
theorem unwiredOperandFormsRaise : Obligations.UnwiredOperandFormsRaise := by
  refine fun s => ⟨fun hu p hp => ?_, fun hu p hp => ?_, fun hu p hp => ?_⟩
  · fin_cases hp <;> exact aluHlInd_unwired _ _ _ s hu
  · fin_cases hp <;> exact aluImm_unwired _ _ _ s hu
  · fin_cases hp <;> exact incDecHl_unwired _ _ _ s hu

/-- Settles O13: byte 0x10 is unimplemented whatever `UNWIRED` holds, and each of the eleven rows has no mapping. -/
theorem stopAndUnmappedRowsRaise : Obligations.StopAndUnmappedRowsRaise := by
  refine fun s => ⟨exec_of_unimplemented (op := 0x10) (.inl rfl), fun p hp => ?_⟩
  fin_cases hp <;> exact ⟨rfl, exec_of_noMapping s rfl rfl⟩

end Sys2Proof.Machine
end
